-- ==== Sys2Proof/Word.lean ====
section
/-! DEFINITION. The word types of the block and the names the spec gives to registers, pairs and flags
(spec/00_scope.md R6, R8; spec/10_state.md R10, R14). Functions on these names (numbering, halves of a pair, wire
forms) stand in Decode.lean and Machine/Operands.lean. -/

namespace Sys2Proof

/-- An 8-bit unsigned value: what one register holds (R10). -/
abbrev Byte := BitVec 8

/-- A 16-bit unsigned value: what a pair view shows (R14) and what a response word carries (R50). -/
abbrev Half := BitVec 16

/-- A 24-bit command word `cmd[23:0]`, bit 23 most significant (R47). -/
abbrev CmdWord := BitVec 24

/-- The eight registers, in the spec's numbering order (R10, R11). -/
inductive Reg where
  | A | F | B | C | D | E | H | L
deriving DecidableEq, Repr

/-- The four pair views, in the spec's numbering order (R14, R15). -/
inductive Pair where
  | AF | BC | DE | HL
deriving DecidableEq, Repr

/-- The flags record, in the fixed field order of R8. -/
structure Flags where
  zero      : Bool
  subtract  : Bool
  halfCarry : Bool
  carry     : Bool
deriving DecidableEq, Repr

end Sys2Proof
end

