-- ==== Sys2Proof/Config.lean ====
section
/-! DEFINITION. What an implementation fixes and the spec leaves open: one thing, the values after reset. -/

namespace Sys2Proof

/-- `INIT`, the open parameter of spec/10_state.md R27 and spec/92_eei_decisions.md D1: for each register the 8-bit value
it holds after reset. The source declines to fix it and the spec forbids a default ("No value of `INIT` is preferred: not
all-zero"), so it has no body here and nothing can be proved of it beyond its type. It is a constant of the machine, so
every reset loads the same eight values (R121). DESIGN CHOICE, safe: notes/assumptions/1.md. The operations that use it
take it as an argument (`Machine.cycle`), so that claims about reset can quantify over it. -/
opaque Config.INIT : Reg → Byte

end Sys2Proof
end

