-- ==== Sys2Proof/Machine/State.lean ====
section
/-! DEFINITION. The state: the block's eight registers, which are the whole of its architectural state (spec/10_state.md
R10, R26), and beside them the two ends of the command port as the one master sees them (R38, R46), which are the model's
own fields and not state of the block. Memory, a program counter, modes and control registers do not exist (R24, R25, R30). -/

namespace Sys2Proof.Machine

/-- The eight 8-bit registers: "one record of eight bytes" (R22). The pairs and the flags are views, computed and never
stored (R14, R19). -/
structure RegFile where
  A : Byte
  F : Byte
  B : Byte
  C : Byte
  D : Byte
  E : Byte
  H : Byte
  L : Byte
deriving DecidableEq, Repr

/-- The register file that holds `INIT` (R27). -/
def RegFile.ofInit (INIT : Reg → Byte) : RegFile :=
  { A := INIT .A, F := INIT .F, B := INIT .B, C := INIT .C, D := INIT .D, E := INIT .E, H := INIT .H, L := INIT .L }

/-- The outcome of one command, as R45 names it. -/
inductive Reply where
  /-- the command returns the 16-bit response `w` -/
  | value (w : Half)
  /-- the command returns no value -/
  | done
  /-- the word was reserved; the record of the word is the model's (R102) -/
  | illegal (w : CmdWord)
deriving DecidableEq, Repr

/-- The input wires of the port during one clock cycle (R46). -/
structure PortIn where
  rst      : Bool
  cmdValid : Bool
  cmd      : CmdWord
deriving DecidableEq, Repr

/-- The machine. -/
structure State where
  /-- the block's registers: all of its state (R10, R26) -/
  regs        : RegFile
  /-- MODEL'S OWN: what the master drives on the port in the coming cycles, soonest first (notes/assumptions/2.md) -/
  pending     : List PortIn
  /-- MODEL'S OWN: the outcome the master saw in the last cycle, `none` if no command was issued in it
  (notes/assumptions/3.md); no command reads it, the block keeps no response (R26) -/
  reply       : Option Reply
  /-- MODEL'S OWN: the sticky mark R107 allows a model, the first reserved word issued so far (notes/assumptions/4.md);
  nothing in the block reads it and nothing clears it -/
  illegalSeen : Option CmdWord
deriving DecidableEq, Repr

/-- Why a step can stop with a fault. -/
inductive Fault where
  /-- A reserved word was issued. Raised by `Sys2Proof.strictStep` alone, the conservative reading that
  spec/60_exceptions.md R103 recommends; safe, since it gives such a run no meaning. `step` takes the exception instead
  (R101), and no command raises anything (R100). -/
  | illegalCommand (w : CmdWord)
deriving DecidableEq, Repr

/-- Why a step can be refused. -/
inductive Refusal where
  /-- The instruction has no meaning yet; safe. Only an arm of `exec` may answer it, and none does. -/
  | notModelled (mnemonic : String)
deriving DecidableEq, Repr

/-- The machine right after a reset that loads `INIT`, with nothing driven on the port (R120, R122). -/
def State.resetWith (INIT : Reg → Byte) : State :=
  { regs := RegFile.ofInit INIT, pending := [], reply := none, illegalSeen := none }

/-- The machine right after reset: "A model's initial state is `INIT`" (R120). -/
def State.reset : State := State.resetWith Config.INIT

end Sys2Proof.Machine
end

