-- ==== Sys2Proof/Machine/Flags.lean ====
section
/-! DEFINITION. The flags codec (spec/42_flags_codec.md R91, R92) and the flags view of F (spec/10_state.md R18, R19). The
block gives the four conditions no meaning and computes no flag (R20, R99): there is no arithmetic here. -/

namespace Sys2Proof.Machine

/-- A boolean as a 1-bit unsigned value zero-extended to 8 bits: true = 1, false = 0 (R7, R97). -/
def boolByte (b : Bool) : Byte := if b then 1#8 else 0#8

/-- `((byte >> position) & 1) != 0` (R92). -/
def bitSet (byte : Byte) (position : Nat) : Bool := ((byte >>> position) &&& 1#8) != 0#8

/-- `encode`: `(zero << 7) | (subtract << 6) | (halfCarry << 5) | (carry << 4)` (R91). -/
def encodeFlags (fl : Flags) : Byte :=
  (boolByte fl.zero <<< 7) ||| (boolByte fl.subtract <<< 6) ||| (boolByte fl.halfCarry <<< 5) ||| (boolByte fl.carry <<< 4)

/-- `decode`: bits 7, 6, 5 and 4 of the byte; "bits outside these four positions are ignored" (R92). -/
def decodeFlags (b : Byte) : Flags :=
  { zero := bitSet b 7, subtract := bitSet b 6, halfCarry := bitSet b 5, carry := bitSet b 4 }

/-- The flags view of the register file: "a pure function of the value of F" (R19). -/
def RegFile.flags (rf : RegFile) : Flags := decodeFlags rf.F

end Sys2Proof.Machine
end

