-- ==== Sys2Proof/Syntax.lean ====
section
/-! DEFINITION. The 26 commands of the block, one constructor per row of spec/opcode_table.json (R49). The operands are
already pulled out of the word: a byte, a half-word or the flags record. -/

namespace Sys2Proof

/-- A command. Every operand value is legal: "all inputs (8-bit and 16-bit unsigned integers, booleans) are total-domain"
(spec/40_reg8.md R60), so the operand types carry the whole of an instruction's well-formedness. -/
inductive Instr where
  /-- `GETA` (R61) -/
  | geta
  /-- `GETF` (R62) -/
  | getf
  /-- `GETB` (R63) -/
  | getb
  /-- `GETC` (R64) -/
  | getc
  /-- `GETD` (R65) -/
  | getd
  /-- `GETE` (R66) -/
  | gete
  /-- `GETH` (R67) -/
  | geth
  /-- `GETL` (R68) -/
  | getl
  /-- `SETA v` (R69) -/
  | seta (v : Byte)
  /-- `SETF v` (R70) -/
  | setf (v : Byte)
  /-- `SETB v` (R71) -/
  | setb (v : Byte)
  /-- `SETC v` (R72) -/
  | setc (v : Byte)
  /-- `SETD v` (R73) -/
  | setd (v : Byte)
  /-- `SETE v` (R74) -/
  | sete (v : Byte)
  /-- `SETH v` (R75) -/
  | seth (v : Byte)
  /-- `SETL v` (R76) -/
  | setl (v : Byte)
  /-- `GETAF` (R81) -/
  | getaf
  /-- `GETBC` (R82) -/
  | getbc
  /-- `GETDE` (R83) -/
  | getde
  /-- `GETHL` (R84) -/
  | gethl
  /-- `SETAF v` (R85) -/
  | setaf (v : Half)
  /-- `SETBC v` (R86) -/
  | setbc (v : Half)
  /-- `SETDE v` (R87) -/
  | setde (v : Half)
  /-- `SETHL v` (R88) -/
  | sethl (v : Half)
  /-- `ENCODE z,s,hc,c` (R91) -/
  | encode (fl : Flags)
  /-- `DECODE b` (R92) -/
  | decode (b : Byte)
deriving DecidableEq, Repr

end Sys2Proof
end

