-- ==== Sys2Proof/WellFormed.lean ====
section
/-! DEFINITION. What a well-formed command word is, written from the list of reserved words of spec/30_encoding.md R54 by
ranges of numbers and independently of the decoder, which follows R55; and the range checks of the assembler's literals
(R56). A term of `Instr` itself needs no check: its operand types admit exactly the legal values (R60, R80, R91, R92). -/

namespace Sys2Proof

/-- Why a word is reserved: the five items (a) to (e) of R54. At the port they are one and the same IllegalCommand (R105:
"a word that is reserved for several reasons at once … raises the same single IllegalCommand"). -/
inductive Reserved where
  /-- (a) `cls` is 0x0 or 0x6 to 0xF -/
  | reservedClass
  /-- (b) an 8-bit command with `sel[3] = 1`: no such register -/
  | reservedRegister
  /-- (c) a 16-bit command with `sel[3:2] ≠ 0`: no such pair -/
  | reservedPair
  /-- (d) class 0x5 with `sel ≥ 2`: no such codec command -/
  | reservedCodec
  /-- (e) a legal opcode byte with a one in a must-be-zero bit of `imm` -/
  | nonzeroImmediate
deriving DecidableEq, Repr

/-- The opcode byte `cmd[23:16]` as a number (R47). -/
def opcodeByte (w : CmdWord) : Nat := w.toNat / 0x10000

/-- The immediate `cmd[15:0]` as a number (R47). -/
def immediate (w : CmdWord) : Nat := w.toNat % 0x10000

/-- R54 (a): opcode bytes 0x00 to 0x0F and 0x60 to 0xFF. -/
def inReservedClass (w : CmdWord) : Bool := opcodeByte w < 0x10 || 0x60 ≤ opcodeByte w

/-- R54 (b): opcode bytes 0x18 to 0x1F and 0x28 to 0x2F. -/
def namesNoRegister (w : CmdWord) : Bool :=
  (0x18 ≤ opcodeByte w && opcodeByte w ≤ 0x1F) || (0x28 ≤ opcodeByte w && opcodeByte w ≤ 0x2F)

/-- R54 (c): opcode bytes 0x34 to 0x3F and 0x44 to 0x4F. -/
def namesNoPair (w : CmdWord) : Bool :=
  (0x34 ≤ opcodeByte w && opcodeByte w ≤ 0x3F) || (0x44 ≤ opcodeByte w && opcodeByte w ≤ 0x4F)

/-- R54 (d): opcode bytes 0x52 to 0x5F. -/
def namesNoCodecCommand (w : CmdWord) : Bool := 0x52 ≤ opcodeByte w && opcodeByte w ≤ 0x5F

/-- R54 (e): "G8 or G16 with `imm ≠ 0`; S8 or DEC with `imm[15:8] ≠ 0`; ENC with `imm[15:4] ≠ 0`". -/
def hasForbiddenImmediate (w : CmdWord) : Bool :=
  let o := opcodeByte w
  let isGet := (0x10 ≤ o && o ≤ 0x17) || (0x30 ≤ o && o ≤ 0x33)
  let isByteOperand := (0x20 ≤ o && o ≤ 0x27) || o == 0x51
  (isGet && immediate w != 0) || (isByteOperand && 0x100 ≤ immediate w) || (o == 0x50 && 0x10 ≤ immediate w)

/-- The item of R54 that lists the word, if one does. -/
def reservedReason (w : CmdWord) : Option Reserved :=
  if inReservedClass w then some .reservedClass
  else if namesNoRegister w then some .reservedRegister
  else if namesNoPair w then some .reservedPair
  else if namesNoCodecCommand w then some .reservedCodec
  else if hasForbiddenImmediate w then some .nonzeroImmediate
  else none

/-- A word is well-formed when no item of R54 lists it. -/
def wordWellFormed (w : CmdWord) : Bool := (reservedReason w).isNone

/-- An 8-bit literal of the assembler: "one 8-bit unsigned literal, 0 to 255" (R56). -/
def literal8WellFormed (n : Nat) : Bool := n ≤ 255

/-- A 16-bit literal: "one 16-bit unsigned literal, 0 to 65535" (R56). -/
def literal16WellFormed (n : Nat) : Bool := n ≤ 65535

/-- A flag literal: "four literals each 0 or 1" (R56). -/
def flagLiteralWellFormed (n : Nat) : Bool := n ≤ 1

end Sys2Proof
end

