-- ==== Sys2Proof/Decode.lean ====
section
/-! DEFINITION. The 24-bit command word: its fields (R47, R51), the numbering of registers and pairs (R11, R15), the wire
packing of the flags record (R52), the decoder of R55, the encoder that is its inverse, the opcode map of R49 as a table of
match and mask pairs, and the mnemonics of R56. The encoding is the spec's own decision (92_eei_decisions.md D3, D4, D7). -/

namespace Sys2Proof

/-- `cls = cmd[23:20]` (R47). -/
def fieldCls (w : CmdWord) : BitVec 4 := w.extractLsb' 20 4

/-- `sel = cmd[19:16]` (R47). -/
def fieldSel (w : CmdWord) : BitVec 4 := w.extractLsb' 16 4

/-- `imm = cmd[15:0]` (R47). -/
def fieldImm (w : CmdWord) : Half := w.extractLsb' 0 16

/-- The register number of R11. -/
def Reg.number : Reg → BitVec 3
  | .A => 0
  | .F => 1
  | .B => 2
  | .C => 3
  | .D => 4
  | .E => 5
  | .H => 6
  | .L => 7

/-- The register with a given number (R11, R44). All eight numbers are in use (R31). -/
def Reg.ofNumber (n : BitVec 3) : Reg :=
  match n.toNat with
  | 0 => .A
  | 1 => .F
  | 2 => .B
  | 3 => .C
  | 4 => .D
  | 5 => .E
  | 6 => .H
  | _ => .L

/-- The pair number of R15. -/
def Pair.number : Pair → BitVec 2
  | .AF => 0
  | .BC => 1
  | .DE => 2
  | .HL => 3

/-- The pair with a given number (R15, R44). All four numbers are in use (R31). -/
def Pair.ofNumber (n : BitVec 2) : Pair :=
  match n.toNat with
  | 0 => .AF
  | 1 => .BC
  | 2 => .DE
  | _ => .HL

/-- The 4-bit wire form of the flags record: `fl[3]` zero, `fl[2]` subtract, `fl[1]` halfCarry, `fl[0]` carry (R52). -/
def Flags.pack (fl : Flags) : BitVec 4 :=
  BitVec.ofBool fl.zero ++ BitVec.ofBool fl.subtract ++ BitVec.ofBool fl.halfCarry ++ BitVec.ofBool fl.carry

/-- The record carried by a 4-bit wire form (R52). -/
def Flags.unpack (n : BitVec 4) : Flags :=
  { zero := n.getLsbD 3, subtract := n.getLsbD 2, halfCarry := n.getLsbD 1, carry := n.getLsbD 0 }

/-- `GET8(r)` of R55: the read command of a register. -/
def Instr.readOf : Reg → Instr
  | .A => .geta
  | .F => .getf
  | .B => .getb
  | .C => .getc
  | .D => .getd
  | .E => .gete
  | .H => .geth
  | .L => .getl

/-- `SET8(r, v)` of R55: the write command of a register. -/
def Instr.writeOf (r : Reg) (v : Byte) : Instr :=
  match r with
  | .A => .seta v
  | .F => .setf v
  | .B => .setb v
  | .C => .setc v
  | .D => .setd v
  | .E => .sete v
  | .H => .seth v
  | .L => .setl v

/-- `GET16(p)` of R55: the read command of a pair. -/
def Instr.readPairOf : Pair → Instr
  | .AF => .getaf
  | .BC => .getbc
  | .DE => .getde
  | .HL => .gethl

/-- `SET16(p, v)` of R55: the write command of a pair. -/
def Instr.writePairOf (p : Pair) (v : Half) : Instr :=
  match p with
  | .AF => .setaf v
  | .BC => .setbc v
  | .DE => .setde v
  | .HL => .sethl v

/-- The decoder of R55: total on all 24-bit words, reading nothing but the word (R53). A word that is no command is
rejected under the item of R54 that lists it. -/
def decodeCmd (w : CmdWord) : Except Reserved Instr :=
  let cls := fieldCls w
  let sel := fieldSel w
  let imm := fieldImm w
  if cls = 0x1#4 then
    if sel.getLsbD 3 then .error .reservedRegister
    else if imm ≠ 0#16 then .error .nonzeroImmediate
    else .ok (Instr.readOf (Reg.ofNumber (sel.extractLsb' 0 3)))
  else if cls = 0x2#4 then
    if sel.getLsbD 3 then .error .reservedRegister
    else if imm.extractLsb' 8 8 ≠ 0#8 then .error .nonzeroImmediate
    else .ok (Instr.writeOf (Reg.ofNumber (sel.extractLsb' 0 3)) (imm.extractLsb' 0 8))
  else if cls = 0x3#4 then
    if sel.extractLsb' 2 2 ≠ 0#2 then .error .reservedPair
    else if imm ≠ 0#16 then .error .nonzeroImmediate
    else .ok (Instr.readPairOf (Pair.ofNumber (sel.extractLsb' 0 2)))
  else if cls = 0x4#4 then
    if sel.extractLsb' 2 2 ≠ 0#2 then .error .reservedPair
    else .ok (Instr.writePairOf (Pair.ofNumber (sel.extractLsb' 0 2)) imm)
  else if cls = 0x5#4 then
    if sel = 0x0#4 then
      if imm.extractLsb' 4 12 ≠ 0#12 then .error .nonzeroImmediate
      else .ok (.encode (Flags.unpack (imm.extractLsb' 0 4)))
    else if sel = 0x1#4 then
      if imm.extractLsb' 8 8 ≠ 0#8 then .error .nonzeroImmediate
      else .ok (.decode (imm.extractLsb' 0 8))
    else .error .reservedCodec
  else .error .reservedClass

/-- Format G8 of R48. -/
def wordG8 (r : Reg) : CmdWord := 0x1#4 ++ 0#1 ++ r.number ++ 0#16

/-- Format S8 of R48. -/
def wordS8 (r : Reg) (v : Byte) : CmdWord := 0x2#4 ++ 0#1 ++ r.number ++ 0#8 ++ v

/-- Format G16 of R48. -/
def wordG16 (p : Pair) : CmdWord := 0x3#4 ++ 0#2 ++ p.number ++ 0#16

/-- Format S16 of R48. -/
def wordS16 (p : Pair) (v : Half) : CmdWord := 0x4#4 ++ 0#2 ++ p.number ++ v

/-- Format ENC of R48. -/
def wordENC (fl : Flags) : CmdWord := 0x5#4 ++ 0x0#4 ++ 0#12 ++ fl.pack

/-- Format DEC of R48. -/
def wordDEC (b : Byte) : CmdWord := 0x5#4 ++ 0x1#4 ++ 0#8 ++ b

/-- `encode_cmd` of R55: the one word of each command, by the formats of R48. -/
def encodeCmd : Instr → CmdWord
  | .geta => wordG8 .A
  | .getf => wordG8 .F
  | .getb => wordG8 .B
  | .getc => wordG8 .C
  | .getd => wordG8 .D
  | .gete => wordG8 .E
  | .geth => wordG8 .H
  | .getl => wordG8 .L
  | .seta v => wordS8 .A v
  | .setf v => wordS8 .F v
  | .setb v => wordS8 .B v
  | .setc v => wordS8 .C v
  | .setd v => wordS8 .D v
  | .sete v => wordS8 .E v
  | .seth v => wordS8 .H v
  | .setl v => wordS8 .L v
  | .getaf => wordG16 .AF
  | .getbc => wordG16 .BC
  | .getde => wordG16 .DE
  | .gethl => wordG16 .HL
  | .setaf v => wordS16 .AF v
  | .setbc v => wordS16 .BC v
  | .setde v => wordS16 .DE v
  | .sethl v => wordS16 .HL v
  | .encode fl => wordENC fl
  | .decode b => wordDEC b

/-- The mnemonic of each command (R56, decision D12). -/
def Instr.mnemonic : Instr → String
  | .geta => "GETA"
  | .getf => "GETF"
  | .getb => "GETB"
  | .getc => "GETC"
  | .getd => "GETD"
  | .gete => "GETE"
  | .geth => "GETH"
  | .getl => "GETL"
  | .seta _ => "SETA"
  | .setf _ => "SETF"
  | .setb _ => "SETB"
  | .setc _ => "SETC"
  | .setd _ => "SETD"
  | .sete _ => "SETE"
  | .seth _ => "SETH"
  | .setl _ => "SETL"
  | .getaf => "GETAF"
  | .getbc => "GETBC"
  | .getde => "GETDE"
  | .gethl => "GETHL"
  | .setaf _ => "SETAF"
  | .setbc _ => "SETBC"
  | .setde _ => "SETDE"
  | .sethl _ => "SETHL"
  | .encode _ => "ENCODE"
  | .decode _ => "DECODE"

/-- One row of the opcode map of R49 (and of spec/opcode_table.json). -/
structure OpcodeRow where
  mnemonic : String
  pattern  : CmdWord
  mask     : CmdWord
deriving DecidableEq, Repr

/-- "A word `w` is the command of a row when `(w & mask) == match`" (R49). -/
def OpcodeRow.admits (row : OpcodeRow) (w : CmdWord) : Bool := (w &&& row.mask) == row.pattern

/-- The rows of R49 that read one register. -/
def opcodeRowsG8 : List OpcodeRow :=
  [⟨"GETA", 0x100000#24, 0xFFFFFF#24⟩,
   ⟨"GETF", 0x110000#24, 0xFFFFFF#24⟩,
   ⟨"GETB", 0x120000#24, 0xFFFFFF#24⟩,
   ⟨"GETC", 0x130000#24, 0xFFFFFF#24⟩,
   ⟨"GETD", 0x140000#24, 0xFFFFFF#24⟩,
   ⟨"GETE", 0x150000#24, 0xFFFFFF#24⟩,
   ⟨"GETH", 0x160000#24, 0xFFFFFF#24⟩,
   ⟨"GETL", 0x170000#24, 0xFFFFFF#24⟩]

/-- The rows of R49 that write one register. -/
def opcodeRowsS8 : List OpcodeRow :=
  [⟨"SETA", 0x200000#24, 0xFFFF00#24⟩,
   ⟨"SETF", 0x210000#24, 0xFFFF00#24⟩,
   ⟨"SETB", 0x220000#24, 0xFFFF00#24⟩,
   ⟨"SETC", 0x230000#24, 0xFFFF00#24⟩,
   ⟨"SETD", 0x240000#24, 0xFFFF00#24⟩,
   ⟨"SETE", 0x250000#24, 0xFFFF00#24⟩,
   ⟨"SETH", 0x260000#24, 0xFFFF00#24⟩,
   ⟨"SETL", 0x270000#24, 0xFFFF00#24⟩]

/-- The rows of R49 that read or write a pair. -/
def opcodeRowsPairs : List OpcodeRow :=
  [⟨"GETAF", 0x300000#24, 0xFFFFFF#24⟩,
   ⟨"GETBC", 0x310000#24, 0xFFFFFF#24⟩,
   ⟨"GETDE", 0x320000#24, 0xFFFFFF#24⟩,
   ⟨"GETHL", 0x330000#24, 0xFFFFFF#24⟩,
   ⟨"SETAF", 0x400000#24, 0xFF0000#24⟩,
   ⟨"SETBC", 0x410000#24, 0xFF0000#24⟩,
   ⟨"SETDE", 0x420000#24, 0xFF0000#24⟩,
   ⟨"SETHL", 0x430000#24, 0xFF0000#24⟩]

/-- The rows of R49 for the flags codec. -/
def opcodeRowsCodec : List OpcodeRow :=
  [⟨"ENCODE", 0x500000#24, 0xFFFFF0#24⟩,
   ⟨"DECODE", 0x510000#24, 0xFFFF00#24⟩]

/-- The opcode map of R49: 26 rows. -/
def opcodeMap : List OpcodeRow := opcodeRowsG8 ++ opcodeRowsS8 ++ opcodeRowsPairs ++ opcodeRowsCodec

/-- The command the decoder reads from the word whose bits are `w`, numbered as spec/opcode_table.json numbers them. Every
row of the table has 24 bits (R53); the bits above `nbits` are zero, and more than 24 bits are no command word. -/
def decodeTableWord (nbits w : Nat) : Option Instr :=
  if 24 < nbits then none else (decodeCmd (BitVec.ofNat 24 (w % 2 ^ nbits))).toOption

end Sys2Proof
end

