-- ==== Sys2Proof/Machine/Operands.lean ====
section
/-! DEFINITION. The operand forms: a register and a pair as places in the register file (R31, R44), the two halves of a
16-bit value (R32, R80), the response word (R50, R52), and the assembler's `$` (R56). -/

namespace Sys2Proof.Machine

/-- The register that is the high byte of a pair, the first-named one (R14, R32). -/
def highReg : Pair → Reg
  | .AF => .A
  | .BC => .B
  | .DE => .D
  | .HL => .H

/-- The register that is the low byte of a pair, the second-named one (R14, R32). -/
def lowReg : Pair → Reg
  | .AF => .F
  | .BC => .C
  | .DE => .E
  | .HL => .L

/-- `(value >> 8) & 0xFF`, that is `value[15:8]` (R80). -/
def highByte (v : Half) : Byte := v.extractLsb' 8 8

/-- `value & 0xFF`, that is `value[7:0]` (R80). -/
def lowByte (v : Half) : Byte := v.extractLsb' 0 8

/-- `high ∥ low`: the first-named register in the high bits (R15, R81). -/
def joinBytes (high low : Byte) : Half := high ++ low

/-- An 8-bit result on the response word: zero-extended (R50). -/
def byteResponse (b : Byte) : Half := b.setWidth 16

/-- A flags record on the response word: packed in `resp[3:0]`, the rest zero (R50, R52). -/
def flagsResponse (fl : Flags) : Half := fl.pack.setWidth 16

/-- The value an outcome returns, if it returns one (R45, R50). -/
def Reply.response : Reply → Option Half
  | .value w => some w
  | .done => none
  | .illegal _ => none

/-- The response of the previous command, which the master carries over for an operand written `$` (R56). -/
def State.lastResponse (s : State) : Option Half := s.reply.bind Reply.response

end Sys2Proof.Machine
end

