-- ==== Sys2Proof/Machine/Ops.lean ====
section
/-! DEFINITION. The named operations: access to the register file by register and by pair, what a command hands back, the
one exception (taking it and going on after it), an idle cycle, and reset. A shared operation has the shape of R45:
registers in, registers and an outcome out. -/

namespace Sys2Proof.Machine

/-- `x[r]` (R7, R11). -/
def RegFile.get (rf : RegFile) : Reg → Byte
  | .A => rf.A
  | .F => rf.F
  | .B => rf.B
  | .C => rf.C
  | .D => rf.D
  | .E => rf.E
  | .H => rf.H
  | .L => rf.L

/-- `x[r] <- v`: all 8 bits of one register, no bit merged or masked, F included (R13, R17, R35). -/
def RegFile.set (rf : RegFile) (r : Reg) (v : Byte) : RegFile :=
  match r with
  | .A => { rf with A := v }
  | .F => { rf with F := v }
  | .B => { rf with B := v }
  | .C => { rf with C := v }
  | .D => { rf with D := v }
  | .E => { rf with E := v }
  | .H => { rf with H := v }
  | .L => { rf with L := v }

/-- `x[2p] ∥ x[2p+1]` (R15, R16). -/
def RegFile.getPair (rf : RegFile) (p : Pair) : Half := joinBytes (rf.get (highReg p)) (rf.get (lowReg p))

/-- Both registers of a pair written in one step: `high` into the high field, `low` into the low field (R36, R80). -/
def RegFile.setPair (rf : RegFile) (p : Pair) (v : Half) : RegFile :=
  (rf.set (highReg p) (highByte v)).set (lowReg p) (lowByte v)

/-- Read a register: the value zero-extended, no state written (R60, R50). -/
def readReg (r : Reg) (rf : RegFile) : RegFile × Reply := (rf, .value (byteResponse (rf.get r)))

/-- Write a register: no value returned (R60, R50). -/
def writeReg (r : Reg) (v : Byte) (rf : RegFile) : RegFile × Reply := (rf.set r v, .done)

/-- Read a pair (R80). -/
def readPair (p : Pair) (rf : RegFile) : RegFile × Reply := (rf, .value (rf.getPair p))

/-- Write a pair: no value returned (R80, R50). -/
def writePair (p : Pair) (v : Half) (rf : RegFile) : RegFile × Reply := (rf.setPair p v, .done)

/-- The codec's `encode` on the port: no register read or written (R90, R91). -/
def answerEncode (fl : Flags) (rf : RegFile) : RegFile × Reply := (rf, .value (byteResponse (encodeFlags fl)))

/-- The codec's `decode` on the port: no register read or written (R90, R92). -/
def answerDecode (b : Byte) (rf : RegFile) : RegFile × Reply := (rf, .value (flagsResponse (decodeFlags b)))

/-- The end of a command: "the new state replaces the old; the outcome goes back to the master" (R45). -/
def State.complete (s : State) (result : RegFile × Reply) : State :=
  { s with regs := result.1, reply := some result.2 }

/-- Taking IllegalCommand, the block's only exception: the registers keep their values, no value is returned and the
outcome is `illegal` (R101); nothing is saved and control goes nowhere, since there is no program counter, no mode and no
handler (R106). The block is ready for the next command at once: there is no return command and nothing to restore (R107),
so the return is the next cycle itself. The first offending word stays in the model's own mark. -/
def State.takeIllegalCommand (s : State) (w : CmdWord) : State :=
  { s with reply := some (.illegal w), illegalSeen := s.illegalSeen.or (some w) }

/-- A cycle with no command: the registers hold and nothing is returned (R26, R46). -/
def State.idle (s : State) : State := { s with reply := none }

/-- Reset sets every register to its `INIT` value, all eight in one step, and defines nothing else (R120, R122). -/
def State.resetRegs (s : State) (INIT : Reg → Byte) : State := { s with regs := RegFile.ofInit INIT }

end Sys2Proof.Machine
end

