-- ==== Sys2Proof/Machine/Codec.lean ====
section
/-! DEFINITION. The two flags codec commands (spec/42_flags_codec.md R90 to R92). -/

namespace Sys2Proof.Machine

/-- `ENCODE z,s,hc,c`: the byte with the four flags in bits 7 to 4 and zero below; F is not written (R91). -/
def execEncode (fl : Flags) (s : State) : Host.Outcome State Fault Refusal := .next (s.complete (answerEncode fl s.regs))

/-- `DECODE b`: bits 7 to 4 of `b` as the record, in `resp[3:0]`; the low nibble of `b` is ignored and F is neither read nor
written (R92). -/
def execDecode (b : Byte) (s : State) : Host.Outcome State Fault Refusal := .next (s.complete (answerDecode b s.regs))

end Sys2Proof.Machine
end

