-- ==== Sys2Proof/Machine/Pair16.lean ====
section
/-! DEFINITION. The eight 16-bit pair commands (spec/41_pair16.md R80 to R88). -/

namespace Sys2Proof.Machine

/-- `GETAF`: `resp <- x[0] ∥ x[1]` (R81). -/
def execGetaf (s : State) : Host.Outcome State Fault Refusal := .next (s.complete (readPair .AF s.regs))

/-- `GETBC`: `resp <- x[2] ∥ x[3]` (R82). -/
def execGetbc (s : State) : Host.Outcome State Fault Refusal := .next (s.complete (readPair .BC s.regs))

/-- `GETDE`: `resp <- x[4] ∥ x[5]` (R83). -/
def execGetde (s : State) : Host.Outcome State Fault Refusal := .next (s.complete (readPair .DE s.regs))

/-- `GETHL`: `resp <- x[6] ∥ x[7]` (R84). -/
def execGethl (s : State) : Host.Outcome State Fault Refusal := .next (s.complete (readPair .HL s.regs))

/-- `SETAF v`: `x[0] <- v[15:8]; x[1] <- v[7:0]`, both in one step; the low nibble of F is stored as given (R85). -/
def execSetaf (v : Half) (s : State) : Host.Outcome State Fault Refusal := .next (s.complete (writePair .AF v s.regs))

/-- `SETBC v`: `x[2] <- v[15:8]; x[3] <- v[7:0]`, both in one step (R86). -/
def execSetbc (v : Half) (s : State) : Host.Outcome State Fault Refusal := .next (s.complete (writePair .BC v s.regs))

/-- `SETDE v`: `x[4] <- v[15:8]; x[5] <- v[7:0]`, both in one step (R87). -/
def execSetde (v : Half) (s : State) : Host.Outcome State Fault Refusal := .next (s.complete (writePair .DE v s.regs))

/-- `SETHL v`: `x[6] <- v[15:8]; x[7] <- v[7:0]`, both in one step (R88). -/
def execSethl (v : Half) (s : State) : Host.Outcome State Fault Refusal := .next (s.complete (writePair .HL v s.regs))

end Sys2Proof.Machine
end

