-- ==== Sys2Proof/Machine/Reg8.lean ====
section
/-! DEFINITION. The sixteen 8-bit register commands (spec/40_reg8.md R60 to R76). -/

namespace Sys2Proof.Machine

/-- `GETA`: `resp <- zext_16(x[0])` (R61). -/
def execGeta (s : State) : Host.Outcome State Fault Refusal := .next (s.complete (readReg .A s.regs))

/-- `GETF`: `resp <- zext_16(x[1])` (R62). -/
def execGetf (s : State) : Host.Outcome State Fault Refusal := .next (s.complete (readReg .F s.regs))

/-- `GETB`: `resp <- zext_16(x[2])` (R63). -/
def execGetb (s : State) : Host.Outcome State Fault Refusal := .next (s.complete (readReg .B s.regs))

/-- `GETC`: `resp <- zext_16(x[3])` (R64). -/
def execGetc (s : State) : Host.Outcome State Fault Refusal := .next (s.complete (readReg .C s.regs))

/-- `GETD`: `resp <- zext_16(x[4])` (R65). -/
def execGetd (s : State) : Host.Outcome State Fault Refusal := .next (s.complete (readReg .D s.regs))

/-- `GETE`: `resp <- zext_16(x[5])` (R66). -/
def execGete (s : State) : Host.Outcome State Fault Refusal := .next (s.complete (readReg .E s.regs))

/-- `GETH`: `resp <- zext_16(x[6])` (R67). -/
def execGeth (s : State) : Host.Outcome State Fault Refusal := .next (s.complete (readReg .H s.regs))

/-- `GETL`: `resp <- zext_16(x[7])` (R68). -/
def execGetl (s : State) : Host.Outcome State Fault Refusal := .next (s.complete (readReg .L s.regs))

/-- `SETA v`: `x[0] <- v` (R69). -/
def execSeta (v : Byte) (s : State) : Host.Outcome State Fault Refusal := .next (s.complete (writeReg .A v s.regs))

/-- `SETF v`: `x[1] <- v`; bits 3 to 0 are stored as given and the four flags follow the new value (R70). -/
def execSetf (v : Byte) (s : State) : Host.Outcome State Fault Refusal := .next (s.complete (writeReg .F v s.regs))

/-- `SETB v`: `x[2] <- v` (R71). -/
def execSetb (v : Byte) (s : State) : Host.Outcome State Fault Refusal := .next (s.complete (writeReg .B v s.regs))

/-- `SETC v`: `x[3] <- v`; the carry flag F[4] is not touched (R72). -/
def execSetc (v : Byte) (s : State) : Host.Outcome State Fault Refusal := .next (s.complete (writeReg .C v s.regs))

/-- `SETD v`: `x[4] <- v` (R73). -/
def execSetd (v : Byte) (s : State) : Host.Outcome State Fault Refusal := .next (s.complete (writeReg .D v s.regs))

/-- `SETE v`: `x[5] <- v` (R74). -/
def execSete (v : Byte) (s : State) : Host.Outcome State Fault Refusal := .next (s.complete (writeReg .E v s.regs))

/-- `SETH v`: `x[6] <- v`; the halfCarry flag F[5] is not touched (R75). -/
def execSeth (v : Byte) (s : State) : Host.Outcome State Fault Refusal := .next (s.complete (writeReg .H v s.regs))

/-- `SETL v`: `x[7] <- v` (R76). -/
def execSetl (v : Byte) (s : State) : Host.Outcome State Fault Refusal := .next (s.complete (writeReg .L v s.regs))

end Sys2Proof.Machine
end

