-- ==== Sys2Proof/Machine/Dispatch.lean ====
section
/-! DEFINITION. What each command does, one arm per constructor of Instr. -/

namespace Sys2Proof.Machine

def exec (i : Instr) (s : State) : Host.Outcome State Fault Refusal :=
  match i with
  | .geta => Sys2Proof.Machine.execGeta s
  | .getf => Sys2Proof.Machine.execGetf s
  | .getb => Sys2Proof.Machine.execGetb s
  | .getc => Sys2Proof.Machine.execGetc s
  | .getd => Sys2Proof.Machine.execGetd s
  | .gete => Sys2Proof.Machine.execGete s
  | .geth => Sys2Proof.Machine.execGeth s
  | .getl => Sys2Proof.Machine.execGetl s
  | .seta v => Sys2Proof.Machine.execSeta v s
  | .setf v => Sys2Proof.Machine.execSetf v s
  | .setb v => Sys2Proof.Machine.execSetb v s
  | .setc v => Sys2Proof.Machine.execSetc v s
  | .setd v => Sys2Proof.Machine.execSetd v s
  | .sete v => Sys2Proof.Machine.execSete v s
  | .seth v => Sys2Proof.Machine.execSeth v s
  | .setl v => Sys2Proof.Machine.execSetl v s
  | .getaf => Sys2Proof.Machine.execGetaf s
  | .getbc => Sys2Proof.Machine.execGetbc s
  | .getde => Sys2Proof.Machine.execGetde s
  | .gethl => Sys2Proof.Machine.execGethl s
  | .setaf v => Sys2Proof.Machine.execSetaf v s
  | .setbc v => Sys2Proof.Machine.execSetbc v s
  | .setde v => Sys2Proof.Machine.execSetde v s
  | .sethl v => Sys2Proof.Machine.execSethl v s
  | .encode fl => Sys2Proof.Machine.execEncode fl s
  | .decode b => Sys2Proof.Machine.execDecode b s

end Sys2Proof.Machine
end

