-- ==== Sys2Proof/Machine/Port.lean ====
section
/-! DEFINITION. The command port of spec/30_encoding.md R46: a presented word is decoded and served, the outputs follow the
outcome, and the closing clock edge may reset the registers. One cycle is one step of the machine; no count of cycles is
kept and nothing depends on time (R132). -/

namespace Sys2Proof.Machine

/-- The output wires of the port during one clock cycle (R46). -/
structure PortOut where
  respValid : Bool
  resp      : Half
  ill       : Bool
deriving DecidableEq, Repr

/-- The output wires for the outcome of a cycle, `none` being a cycle with no command (R46). -/
def portOut : Option Reply → PortOut
  | some (.value w) => { respValid := true, resp := w, ill := false }
  | some .done => { respValid := false, resp := 0x0000#16, ill := false }
  | some (.illegal _) => { respValid := false, resp := 0x0000#16, ill := true }
  | none => { respValid := false, resp := 0x0000#16, ill := false }

/-- The output wires as the master saw them in the last cycle. -/
def State.outputs (s : State) : PortOut := portOut s.reply

/-- A word issued by the master: the command it decodes to runs; a reserved word raises IllegalCommand (R45, R101). -/
def issueWord (w : CmdWord) (s : State) : Host.Outcome State Fault Refusal :=
  match decodeCmd w with
  | .ok i => exec i s
  | .error _ => .next (s.takeIllegalCommand w)

/-- What a cycle does before its closing edge: serve the presented word, or idle if none is (R46). -/
def serve (inp : PortIn) (s : State) : Host.Outcome State Fault Refusal :=
  if inp.cmdValid then issueWord inp.cmd s else .next s.idle

/-- The closing edge: "the state becomes `INIT` if `rst = 1` (whatever `cmd_valid` and `cmd` are), otherwise `s'`" (R46,
R105). The outputs of the cycle stay those of the command and the old state. -/
def closeCycle (INIT : Reg → Byte) (rst : Bool) (o : Host.Outcome State Fault Refusal) : Host.Outcome State Fault Refusal :=
  match o with
  | .next t => .next (if rst then t.resetRegs INIT else t)
  | .fault f => .fault f
  | .refused r => .refused r

/-- One clock cycle of an instance whose reset values are `INIT`. -/
def cycle (INIT : Reg → Byte) (inp : PortIn) (s : State) : Host.Outcome State Fault Refusal :=
  closeCycle INIT inp.rst (serve inp s)

/-- One step of an instance whose reset values are `INIT`: the next cycle the master drives, or a cycle with nothing driven
when it drives none: "the master idles by issuing nothing" (R54, R111). -/
def stepWith (INIT : Reg → Byte) (s : State) : Host.Outcome State Fault Refusal :=
  match s.pending with
  | [] => .next s.idle
  | inp :: rest => cycle INIT inp { s with pending := rest }

/-- A cycle that presents one word and no reset. -/
def presentWord (w : CmdWord) : PortIn := { rst := false, cmdValid := true, cmd := w }

end Sys2Proof.Machine
end

