-- ==== Sys2Proof/Machine/Step.lean ====
section
/-! DEFINITION. One step of the machine, and how a word is placed where the next step takes it. -/

namespace Sys2Proof.Machine

/-- One step: the next cycle the master drives on the port. -/
def step (s : State) : Host.Outcome State Fault Refusal := stepWith Config.INIT s

/-- `s` with the word whose bits are `w` driven on the port in the very next cycle, ahead of whatever else the master has
to issue. The block stores no program (R42): this stands for the master issuing the word. -/
def State.withFetchWord (s : State) (nbits w : Nat) : State :=
  { s with pending := presentWord (BitVec.ofNat 24 (w % 2 ^ nbits)) :: s.pending }

end Sys2Proof.Machine
end

