-- ==== Sys2Proof/Machine/Master.lean ====
section
/-! DEFINITION. The master's side of spec/30_encoding.md: the assembler of R56, at the level of a mnemonic and its operands,
the `$` operand, and the pseudo-commands of R57 to R59, "sequences the master runs; the block sees only their expansions".
How a line is spelled in characters (spaces, the base of a literal) the spec does not give, and nothing here models it. -/

namespace Sys2Proof.Machine

/-- An operand as written: an unsigned literal, or `$` for the low bits of the previous command's response (R56). -/
inductive Operand where
  | lit (n : Nat)
  | dollar
deriving DecidableEq, Repr

/-- One line of the assembler: "a mnemonic in capitals, then the operand if any". ENCODE's four literals are four
operands; its `$` is one. -/
structure Line where
  mnemonic : String
  operands : List Operand
deriving DecidableEq, Repr

/-- A `v8` operand: a literal 0 to 255, or `resp[7:0]` (R56). `none` is an assembly error. -/
def operand8 (prev : Option Half) : Operand → Option Byte
  | .lit n => if literal8WellFormed n then some (BitVec.ofNat 8 n) else none
  | .dollar => prev.map lowByte

/-- A `v16` operand: a literal 0 to 65535, or `resp[15:0]` (R56). -/
def operand16 (prev : Option Half) : Operand → Option Half
  | .lit n => if literal16WellFormed n then some (BitVec.ofNat 16 n) else none
  | .dollar => prev

/-- A `z,s,hc,c` operand: four literals each 0 or 1, or `resp[3],resp[2],resp[1],resp[0]` (R56). -/
def operandFlags (prev : Option Half) : List Operand → Option Flags
  | [.lit z, .lit s, .lit hc, .lit c] =>
    if flagLiteralWellFormed z && flagLiteralWellFormed s && flagLiteralWellFormed hc && flagLiteralWellFormed c then
      some { zero := z == 1, subtract := s == 1, halfCarry := hc == 1, carry := c == 1 }
    else none
  | [.dollar] => prev.map fun w => Flags.unpack (w.extractLsb' 0 4)
  | _ => none

/-- The commands without operand, by mnemonic (R56). -/
def readMnemonic : String → Option Instr
  | "GETA" => some .geta
  | "GETF" => some .getf
  | "GETB" => some .getb
  | "GETC" => some .getc
  | "GETD" => some .getd
  | "GETE" => some .gete
  | "GETH" => some .geth
  | "GETL" => some .getl
  | "GETAF" => some .getaf
  | "GETBC" => some .getbc
  | "GETDE" => some .getde
  | "GETHL" => some .gethl
  | _ => none

/-- The commands with one literal operand, given the operand (R56). -/
def valueMnemonic (prev : Option Half) (op : Operand) : String → Option Instr
  | "SETA" => (operand8 prev op).map .seta
  | "SETF" => (operand8 prev op).map .setf
  | "SETB" => (operand8 prev op).map .setb
  | "SETC" => (operand8 prev op).map .setc
  | "SETD" => (operand8 prev op).map .setd
  | "SETE" => (operand8 prev op).map .sete
  | "SETH" => (operand8 prev op).map .seth
  | "SETL" => (operand8 prev op).map .setl
  | "SETAF" => (operand16 prev op).map .setaf
  | "SETBC" => (operand16 prev op).map .setbc
  | "SETDE" => (operand16 prev op).map .setde
  | "SETHL" => (operand16 prev op).map .sethl
  | "DECODE" => (operand8 prev op).map .decode
  | _ => none

/-- The command a line stands for, `prev` being the previous command's response; `none` is an assembly error, "not a
command" (R56). -/
def assemble (prev : Option Half) (line : Line) : Option Instr :=
  if line.mnemonic = "ENCODE" then (operandFlags prev line.operands).map .encode
  else
    match line.operands with
    | [] => readMnemonic line.mnemonic
    | [op] => valueMnemonic prev op line.mnemonic
    | _ => none

/-- The master runs lines one after another, carrying each response over to the next `$` (R56). `none` where a line does
not assemble or a command does not complete. -/
def runLines : List Line → State → Option State
  | [], s => some s
  | line :: rest, s =>
    match assemble s.lastResponse line with
    | none => none
    | some i =>
      match exec i s with
      | .next t => runLines rest t
      | .fault _ => none
      | .refused _ => none

/-- `GETFLAGS`: `GETF` ; `DECODE $` (R57). -/
def getflagsLines : List Line := [⟨"GETF", []⟩, ⟨"DECODE", [.dollar]⟩]

/-- `SETFLAGS z,s,hc,c`: `ENCODE z,s,hc,c` ; `SETF $` (R58). -/
def setflagsLines (z s hc c : Nat) : List Line :=
  [⟨"ENCODE", [.lit z, .lit s, .lit hc, .lit c]⟩, ⟨"SETF", [.dollar]⟩]

/-- `NORMF`: `GETF` ; `DECODE $` ; `ENCODE $` ; `SETF $` (R59). -/
def normfLines : List Line := [⟨"GETF", []⟩, ⟨"DECODE", [.dollar]⟩, ⟨"ENCODE", [.dollar]⟩, ⟨"SETF", [.dollar]⟩]

end Sys2Proof.Machine
end

