-- ==== Sys2Proof/Safety.lean ====
section
/-! DEFINITION. What a safe run is, in the terms claims use: no reserved word has been issued. spec/60_exceptions.md R103:
"no claim about the block D0 describes should rest on what a reserved word does". -/

namespace Sys2Proof

open Sys2Proof.Machine

/-- The run has issued no reserved word: the model's mark is clear. A claim about the source's own contract, and not about
the spec's command word, is a claim about safe states. -/
def Safe (s : State) : Prop := s.illegalSeen = none

/-- The conservative step that R103 recommends: a reserved word is a fault of the step, and every other step is `step`. -/
def strictStep (s : State) : Host.Outcome State Fault Refusal :=
  match step s with
  | .next t =>
    match t.reply with
    | some (.illegal w) => .fault (.illegalCommand w)
    | some (.value _) => .next t
    | some .done => .next t
    | none => .next t
  | .fault f => .fault f
  | .refused r => .refused r

/-- The mark tells the truth: it holds only reserved words, and an `illegal` outcome names a reserved word and leaves the
mark set (R101, R102; the mark is the model's bookkeeping, R107). -/
def MarkSound (s : State) : Prop :=
  (∀ w, s.illegalSeen = some w → wordWellFormed w = false) ∧
  (∀ w, s.reply = some (.illegal w) → wordWellFormed w = false ∧ s.illegalSeen ≠ none)

/-- F[3:0] = 0, the property the block does not keep by itself (R129). -/
def NibbleClear (rf : RegFile) : Prop := rf.F &&& 0x0F#8 = 0#8

/-- What R129 asks of a master in one cycle: "write F only with results of ENCODE, and mask the value with 0xFFF0 before any
SETAF"; and no reset, since `INIT.F` may have any low nibble (R122). -/
def KeepsNibble (inp : PortIn) : Prop :=
  inp.rst = false ∧
  (inp.cmdValid = true →
    (∀ v, decodeCmd inp.cmd = .ok (.setf v) → ∃ fl, v = encodeFlags fl) ∧
    (∀ v, decodeCmd inp.cmd = .ok (.setaf v) → ∃ x, v = x &&& 0xFFF0#16))

/-- F[3:0] is clear and the master goes on doing what R129 asks. -/
def NibbleDiscipline (s : State) : Prop := NibbleClear s.regs ∧ ∀ inp ∈ s.pending, KeepsNibble inp

end Sys2Proof
end

