-- ==== Sys2Proof/Certificates/Slice0/Obligations.lean ====
section
/-! DEFINITION. The statements for the provers. Each docstring names the rules of spec/ it formalises. Where a rule rests on
a decision the spec marks as its own (92_eei_decisions.md D<n>) or on a choice of this model (notes/assumptions/<n>.md), the
docstring says so. The vocabulary comes first; it is written from the rules and does not call the meanings it speaks about,
apart from `exec`, `step` and the register read `RegFile.get`. -/

namespace Sys2Proof.Claims

open Sys2Proof.Machine

/-- The model's own port and mark fields are as they were. -/
def OwnKept (s t : State) : Prop := t.pending = s.pending ∧ t.illegalSeen = s.illegalSeen

/-- The command completes and returns `w`, and nothing else changes: no register, no field of the model's own. -/
def Answers (i : Instr) (s : State) (w : Half) : Prop :=
  ∃ t, exec i s = .next t ∧ t.reply = some (.value w) ∧ (∀ r, t.regs.get r = s.regs.get r) ∧ OwnKept s t

/-- The command completes and returns no value, and afterwards register `r` holds `value r`, for all eight. -/
def Leaves (i : Instr) (s : State) (value : Reg → Byte) : Prop :=
  ∃ t, exec i s = .next t ∧ t.reply = some .done ∧ (∀ r, t.regs.get r = value r) ∧ OwnKept s t

/-- The commands run one after another to their ends. -/
def runCmds : List Instr → State → Option State
  | [], s => some s
  | i :: rest, s =>
    match exec i s with
    | .next t => runCmds rest t
    | .fault _ => none
    | .refused _ => none

/-- In the cycle that presents `w`, with `rest` to come after it, the outputs are `out` and the registers become `value`. -/
def PortServes (w : CmdWord) (s : State) (value : Reg → Byte) (out : PortOut) : Prop :=
  ∀ rest, s.pending = presentWord w :: rest →
    ∃ t, step s = .next t ∧ t.outputs = out ∧ (∀ r, t.regs.get r = value r) ∧ t.pending = rest ∧
      t.illegalSeen = s.illegalSeen

/-- `(high << 8) | low` at 16 bits (R80, R140). -/
def shiftJoin (high low : Byte) : Half := (high.setWidth 16 <<< 8) ||| low.setWidth 16

/-- `(value >> 8) & 0xFF` (R80). -/
def shiftHigh (v : Half) : Byte := ((v >>> 8) &&& 0x00FF#16).setWidth 8

/-- `value & 0xFF` (R80). -/
def maskLow (v : Half) : Byte := (v &&& 0x00FF#16).setWidth 8

/-- A boolean as a number: true = 1, false = 0 (R7). -/
def bit (b : Bool) : Nat := if b then 1 else 0

/-- A register with its read command, its write command and the words of the opcode table (R61 to R76). -/
structure RegRow where
  reg      : Reg
  read     : Instr
  write    : Byte → Instr
  readAt   : CmdWord
  writeAt  : CmdWord

/-- The eight registers (R61 to R76). -/
def regRows : List RegRow :=
  [⟨.A, .geta, .seta, 0x100000#24, 0x200000#24⟩,
   ⟨.F, .getf, .setf, 0x110000#24, 0x210000#24⟩,
   ⟨.B, .getb, .setb, 0x120000#24, 0x220000#24⟩,
   ⟨.C, .getc, .setc, 0x130000#24, 0x230000#24⟩,
   ⟨.D, .getd, .setd, 0x140000#24, 0x240000#24⟩,
   ⟨.E, .gete, .sete, 0x150000#24, 0x250000#24⟩,
   ⟨.H, .geth, .seth, 0x160000#24, 0x260000#24⟩,
   ⟨.L, .getl, .setl, 0x170000#24, 0x270000#24⟩]

/-- A pair XY with the commands of its two registers and its own, and the words of the opcode table (R81 to R88). -/
structure PairRow where
  x       : Reg
  y       : Reg
  readX   : Instr
  readY   : Instr
  writeX  : Byte → Instr
  writeY  : Byte → Instr
  read    : Instr
  write   : Half → Instr
  readAt  : CmdWord
  writeAt : CmdWord

/-- The four pairs (R14, R81 to R88). -/
def pairRows : List PairRow :=
  [⟨.A, .F, .geta, .getf, .seta, .setf, .getaf, .setaf, 0x300000#24, 0x400000#24⟩,
   ⟨.B, .C, .getb, .getc, .setb, .setc, .getbc, .setbc, 0x310000#24, 0x410000#24⟩,
   ⟨.D, .E, .getd, .gete, .setd, .sete, .getde, .setde, 0x320000#24, 0x420000#24⟩,
   ⟨.H, .L, .geth, .getl, .seth, .setl, .gethl, .sethl, 0x330000#24, 0x430000#24⟩]

/-- What each command stores, by the "State written" lines of R61 to R92. -/
def stores : Instr → List (Reg × Byte)
  | .seta v => [(.A, v)]
  | .setf v => [(.F, v)]
  | .setb v => [(.B, v)]
  | .setc v => [(.C, v)]
  | .setd v => [(.D, v)]
  | .sete v => [(.E, v)]
  | .seth v => [(.H, v)]
  | .setl v => [(.L, v)]
  | .setaf v => [(.A, shiftHigh v), (.F, maskLow v)]
  | .setbc v => [(.B, shiftHigh v), (.C, maskLow v)]
  | .setde v => [(.D, shiftHigh v), (.E, maskLow v)]
  | .sethl v => [(.H, shiftHigh v), (.L, maskLow v)]
  | .geta | .getf | .getb | .getc | .getd | .gete | .geth | .getl => []
  | .getaf | .getbc | .getde | .gethl => []
  | .encode _ => []
  | .decode _ => []

/-- The registers a command writes. -/
def writes (i : Instr) : List Reg := (stores i).map Prod.fst

/-- "The value of the most recent earlier write that covered `r`", or `start` if there is none (R39). -/
def mostRecent (r : Reg) (cs : List Instr) (start : Byte) : Byte :=
  (cs.reverse.findSome? fun i => (stores i).lookup r).getD start

/-- In `t` every register read and every pair read returns the most recent writes of `cs` that covered the registers, or
`start` where there are none (R39). -/
def ReadsMostRecent (cs : List Instr) (start : Reg → Byte) (t : State) : Prop :=
  (∀ row ∈ regRows, Answers row.read t ((mostRecent row.reg cs (start row.reg)).setWidth 16)) ∧
  (∀ row ∈ pairRows, Answers row.read t
    (shiftJoin (mostRecent row.x cs (start row.x)) (mostRecent row.y cs (start row.y))))

/-- The operands of a command as the assembler writes them (R56). -/
def operandsOf : Instr → List Operand
  | .seta v => [.lit v.toNat]
  | .setf v => [.lit v.toNat]
  | .setb v => [.lit v.toNat]
  | .setc v => [.lit v.toNat]
  | .setd v => [.lit v.toNat]
  | .sete v => [.lit v.toNat]
  | .seth v => [.lit v.toNat]
  | .setl v => [.lit v.toNat]
  | .setaf v => [.lit v.toNat]
  | .setbc v => [.lit v.toNat]
  | .setde v => [.lit v.toNat]
  | .sethl v => [.lit v.toNat]
  | .encode fl => [.lit (bit fl.zero), .lit (bit fl.subtract), .lit (bit fl.halfCarry), .lit (bit fl.carry)]
  | .decode b => [.lit b.toNat]
  | .geta | .getf | .getb | .getc | .getd | .gete | .geth | .getl => []
  | .getaf | .getbc | .getde | .gethl => []

/-- The assembler line of a command (R56). -/
def lineOf (i : Instr) : Line := ⟨i.mnemonic, operandsOf i⟩

/-- The mnemonics that take one `v8` operand, with the command they make of it (R56). -/
def byteLines : List (String × (Byte → Instr)) :=
  [("SETA", .seta), ("SETF", .setf), ("SETB", .setb), ("SETC", .setc), ("SETD", .setd), ("SETE", .sete), ("SETH", .seth),
   ("SETL", .setl), ("DECODE", .decode)]

/-- The mnemonics that take one `v16` operand, with the command they make of it (R56). -/
def halfLines : List (String × (Half → Instr)) :=
  [("SETAF", .setaf), ("SETBC", .setbc), ("SETDE", .setde), ("SETHL", .sethl)]

end Sys2Proof.Claims

open Sys2Proof Sys2Proof.Machine Sys2Proof.Claims

/-! ## The command word -/

/-- R55, decision D3: "`decode(encode_cmd(c)) = c` for every command `c`", every operand at every value. -/
def Obligations.DecodeInvertsEncode : Prop :=
  ∀ i : Instr, decodeCmd (encodeCmd i) = .ok i

/-- R55, decision D3: "`encode_cmd(decode(w)) = w` for every legal `w`". -/
def Obligations.EncodeInvertsDecode : Prop :=
  ∀ (w : CmdWord) (i : Instr), decodeCmd w = .ok i → encodeCmd i = w

/-- R54 against R55, decision D5: the words the decoder rejects are exactly those of the five items (a) to (e) of R54, each
under its own item. The names of the items are the model's choice (notes/assumptions/4.md): R55's decoder answers one
`invalid`, and R102 gives no cause code. -/
def Obligations.RejectedWordsAreTheListedOnes : Prop :=
  ∀ (w : CmdWord) (r : Reserved), decodeCmd w = .error r ↔ reservedReason w = some r

/-- R49 against R55, decision D3: a word matches a row of the opcode map exactly when it decodes to a command of that row's
mnemonic, and "no word matches two rows". -/
def Obligations.OpcodeMapAgreesWithDecoder : Prop :=
  (∀ row ∈ opcodeMap, ∀ w, row.admits w = true ↔ ∃ i, decodeCmd w = .ok i ∧ i.mnemonic = row.mnemonic) ∧
  (∀ row ∈ opcodeMap, ∀ row' ∈ opcodeMap, ∀ w, row.admits w = true → row'.admits w = true → row = row') ∧
  (∀ w i, decodeCmd w = .ok i → ∃ row ∈ opcodeMap, row.admits w = true ∧ row.mnemonic = i.mnemonic)

/-- R54, decision D3: "Of the 16 777 216 words, 264 476 are legal … and 16 512 740 are reserved." -/
def Obligations.LegalAndReservedWordCounts : Prop :=
  Nat.card { w : CmdWord // ∃ i, decodeCmd w = .ok i } = 264476 ∧
  Nat.card { w : CmdWord // ∃ r, decodeCmd w = .error r } = 16512740

/-- Sanity: words written out from R49 and R54 decode to the commands, or are rejected under the items, they stand for
(spec/95_test_vectors.md V7). The names under which words are rejected are the model's choice (notes/assumptions/4.md): the
spec's decoder answers one `invalid` (R55). -/
def Obligations.SampleWordsDecode : Prop :=
  decodeCmd 0x170000#24 = .ok .getl ∧ decodeCmd 0x2700FF#24 = .ok (.setl 0xFF#8) ∧
  decodeCmd 0x330000#24 = .ok .gethl ∧ decodeCmd 0x43FFFF#24 = .ok (.sethl 0xFFFF#16) ∧
  decodeCmd 0x500008#24 = .ok (.encode ⟨true, false, false, false⟩) ∧ decodeCmd 0x5100FF#24 = .ok (.decode 0xFF#8) ∧
  decodeCmd 0x000000#24 = .error .reservedClass ∧ decodeCmd 0x180000#24 = .error .reservedRegister ∧
  decodeCmd 0x440000#24 = .error .reservedPair ∧ decodeCmd 0x520000#24 = .error .reservedCodec ∧
  decodeCmd 0x2001FF#24 = .error .nonzeroImmediate ∧ decodeCmd 0x500010#24 = .error .nonzeroImmediate

/-- R11, R15, R31, R44, decision D4: the numbers of the registers and pairs, every number in use, and pair `p` the registers
`2p` (high byte) and `2p+1` (low byte). -/
def Obligations.PairIsRegistersTwoPAndTwoPPlusOne : Prop :=
  [Reg.A, .F, .B, .C, .D, .E, .H, .L].map Reg.number = [0, 1, 2, 3, 4, 5, 6, 7] ∧
  [Pair.AF, .BC, .DE, .HL].map Pair.number = [0, 1, 2, 3] ∧
  (∀ n, (Reg.ofNumber n).number = n) ∧ (∀ n, (Pair.ofNumber n).number = n) ∧
  (∀ p : Pair, (highReg p).number.toNat = 2 * p.number.toNat ∧ (lowReg p).number.toNat = 2 * p.number.toNat + 1) ∧
  (∀ (rf : RegFile) (p : Pair),
    rf.getPair p = rf.get (Reg.ofNumber (p.number ++ 0#1)) ++ rf.get (Reg.ofNumber (p.number ++ 1#1)))

/-! ## The 8-bit commands -/

/-- R60: a GET of a register returns its value and changes nothing. A SET replaces its value and returns nothing, the other
seven registers keep theirs. Each completes in every state for every operand, and no flag moves but as a bit of F. -/
def Obligations.ByteCommandsTouchOneRegister : Prop :=
  ∀ row ∈ regRows, ∀ s : State,
    Answers row.read s ((s.regs.get row.reg).setWidth 16) ∧
    ∀ v : Byte, Leaves (row.write v) s (fun r => if r = row.reg then v else s.regs.get r) ∧
      (row.reg ≠ .F → ∀ t, exec (row.write v) s = .next t → t.regs.flags = s.regs.flags)

/-- R61 to R68 with their words (decisions D3, D8): the cycle that presents a read word answers the register zero-extended,
and no register changes. -/
def Obligations.RegisterReadWordsAtThePort : Prop :=
  ∀ row ∈ regRows, ∀ s : State,
    PortServes row.readAt s s.regs.get
      { respValid := true, resp := (s.regs.get row.reg).setWidth 16, ill := false }

/-- R69 to R76 with their words `match | v` (decisions D3, D8): the cycle that presents a write word writes `v` to its
register and no other, and answers nothing. -/
def Obligations.RegisterWriteWordsAtThePort : Prop :=
  ∀ row ∈ regRows, ∀ (s : State) (v : Byte),
    PortServes (row.writeAt ||| v.setWidth 24) s (fun r => if r = row.reg then v else s.regs.get r)
      { respValid := false, resp := 0#16, ill := false }

/-- R77 (an inference the spec marks as its own, from R60 and R39): after `SETr v` and any commands none of which writes `r`,
`GETr` returns `v` zero-extended. -/
def Obligations.ReadAfterWriteUntilNextWrite : Prop :=
  ∀ row ∈ regRows, ∀ (s : State) (v : Byte) (cs : List Instr), (∀ i ∈ cs, row.reg ∉ writes i) →
    ∃ t, runCmds (row.write v :: cs) s = some t ∧ Answers row.read t (v.setWidth 16)

/-- R78 (an inference the spec marks as its own): the later of two writes to one register decides, and writes to different
registers commute. -/
def Obligations.ByteWritesOverwriteAndCommute : Prop :=
  (∀ row ∈ regRows, ∀ (s : State) (v1 v2 : Byte), ∃ t u, runCmds [row.write v1, row.write v2] s = some t ∧
    runCmds [row.write v2] s = some u ∧ t = u) ∧
  (∀ row ∈ regRows, ∀ row' ∈ regRows, row.reg ≠ row'.reg → ∀ (s : State) (v1 v2 : Byte),
    ∃ t u, runCmds [row.write v1, row'.write v2] s = some t ∧ runCmds [row'.write v2, row.write v1] s = some u ∧ t = u)

/-! ## The 16-bit commands -/

/-- R80: a getter returns `(high_field << 8) | low_field` and changes nothing; a setter writes `(value >> 8) & 0xFF` into the
high field and `value & 0xFF` into the low one, both in one step, and the six registers outside the pair keep their values.
Each completes in every state, and the flags move only where F is written. -/
def Obligations.PairCommandsTouchOnePair : Prop :=
  ∀ row ∈ pairRows, ∀ s : State,
    Answers row.read s (shiftJoin (s.regs.get row.x) (s.regs.get row.y)) ∧
    ∀ v : Half,
      Leaves (row.write v) s (fun r => if r = row.x then shiftHigh v else if r = row.y then maskLow v else s.regs.get r) ∧
      (row.y ≠ .F → ∀ t, exec (row.write v) s = .next t → t.regs.flags = s.regs.flags)

/-- R81 to R84 with their words (decisions D3, D8): the cycle that presents a pair's read word answers both registers, the
first-named in the high byte. -/
def Obligations.PairReadWordsAtThePort : Prop :=
  ∀ row ∈ pairRows, ∀ s : State,
    PortServes row.readAt s s.regs.get
      { respValid := true, resp := shiftJoin (s.regs.get row.x) (s.regs.get row.y), ill := false }

/-- R85 to R88 with their words `match | v` (decisions D3, D8): the cycle that presents a pair's write word writes both
halves and no other register, and answers nothing. -/
def Obligations.PairWriteWordsAtThePort : Prop :=
  ∀ row ∈ pairRows, ∀ (s : State) (v : Half),
    PortServes (row.writeAt ||| v.setWidth 24) s
      (fun r => if r = row.x then shiftHigh v else if r = row.y then maskLow v else s.regs.get r)
      { respValid := false, resp := 0#16, ill := false }

/-- R140 (an inference the spec marks as its own): the pair read equals `high * 256 + low`, the written halves are
`value / 256` and `value mod 256`. -/
def Obligations.PairArithmeticIsExact : Prop :=
  ∀ row ∈ pairRows, ∀ s : State,
    (∃ w, Answers row.read s w ∧ w.toNat = (s.regs.get row.x).toNat * 256 + (s.regs.get row.y).toNat) ∧
    ∀ v : Half, ∃ t, exec (row.write v) s = .next t ∧
      (t.regs.get row.x).toNat = v.toNat / 256 ∧ (t.regs.get row.y).toNat = v.toNat % 256

/-- R89: a pair written and read returns the value written, for all 16-bit values and all four pairs; a pair read and
written back with the value read leaves every register as it was. -/
def Obligations.PairRoundTripIsLossless : Prop :=
  ∀ row ∈ pairRows, ∀ s : State,
    (∀ v : Half, ∃ t, exec (row.write v) s = .next t ∧ Answers row.read t v) ∧
    (∃ t w, exec row.read s = .next t ∧ t.reply = some (.value w) ∧ Leaves (row.write w) t s.regs.get)

/-- R33, R79: what an access of one width sees of a write of the other. After `SETXY v` the halves read `v[15:8]` and
`v[7:0]`. After `SETX h` and `SETY l`, in either order and with any commands between and after that write neither register,
`GETXY` returns `(h << 8) | l`. A write of one half leaves the other half as it was. -/
def Obligations.PairAndByteAccessesSeeEachOther : Prop :=
  ∀ row ∈ pairRows, ∀ s : State,
    (∀ v : Half, ∃ t, exec (row.write v) s = .next t ∧
      Answers row.readX t ((v.extractLsb' 8 8).setWidth 16) ∧ Answers row.readY t ((v.extractLsb' 0 8).setWidth 16)) ∧
    (∀ (h l : Byte) (mid post : List Instr), (∀ i ∈ mid ++ post, row.x ∉ writes i ∧ row.y ∉ writes i) →
      ∃ t u, runCmds (row.writeX h :: mid ++ row.writeY l :: post) s = some t ∧ Answers row.read t (shiftJoin h l) ∧
        runCmds (row.writeY l :: mid ++ row.writeX h :: post) s = some u ∧ Answers row.read u (shiftJoin h l)) ∧
    (∀ h : Byte, ∃ t, exec (row.writeX h) s = .next t ∧ Answers row.read t (shiftJoin h (s.regs.get row.y))) ∧
    (∀ l : Byte, ∃ t, exec (row.writeY l) s = .next t ∧ Answers row.read t (shiftJoin (s.regs.get row.x) l))

/-- R141 (an inference the spec marks as its own): a half written after the pair replaces that half alone; writes to
different pairs commute; a pair write and an 8-bit write outside the pair commute. -/
def Obligations.PairWritesAndOtherWritesCommute : Prop :=
  (∀ row ∈ pairRows, ∀ (s : State) (v : Half) (b : Byte),
    (∃ t, runCmds [row.write v, row.writeY b] s = some t ∧ Answers row.read t (shiftJoin (shiftHigh v) b)) ∧
    (∃ t, runCmds [row.write v, row.writeX b] s = some t ∧ Answers row.read t (shiftJoin b (maskLow v)))) ∧
  (∀ row ∈ pairRows, ∀ row' ∈ pairRows, row.x ≠ row'.x → ∀ (s : State) (v v' : Half),
    ∃ t, runCmds [row.write v, row'.write v'] s = some t ∧ runCmds [row'.write v', row.write v] s = some t) ∧
  (∀ row ∈ pairRows, ∀ reg ∈ regRows, reg.reg ≠ row.x → reg.reg ≠ row.y → ∀ (s : State) (v : Half) (b : Byte),
    ∃ t, runCmds [row.write v, reg.write b] s = some t ∧ runCmds [reg.write b, row.write v] s = some t)

/-! ## The flags -/

/-- R90: the two codec commands read and write no register, and their answer depends on the operand alone, not on the state
and not on any earlier command. (That they stand on the command port is decision D17.) -/
def Obligations.CodecCommandsArePure : Prop :=
  (∀ fl : Flags, ∃ w : Half, ∀ s : State, Answers (.encode fl) s w) ∧
  (∀ b : Byte, ∃ w : Half, ∀ s : State, Answers (.decode b) s w)

/-- R91, R97 (decisions D3, D7, D8): `ENCODE` answers `128*zero + 64*subtract + 32*halfCarry + 16*carry`; at the port its
word is `0x500000 | fl`. -/
def Obligations.EncodeAnswersTheWeightedSum : Prop :=
  ∀ (fl : Flags) (s : State),
    (∃ w, Answers (.encode fl) s w ∧
      w.toNat = 128 * bit fl.zero + 64 * bit fl.subtract + 32 * bit fl.halfCarry + 16 * bit fl.carry) ∧
    (∀ n : BitVec 4, n.toNat = 8 * bit fl.zero + 4 * bit fl.subtract + 2 * bit fl.halfCarry + bit fl.carry →
      PortServes (0x500000#24 ||| n.setWidth 24) s s.regs.get
        { respValid := true, resp := n.setWidth 16 <<< 4, ill := false })

/-- R92, R97 (decisions D3, D7, D8): `DECODE b` answers `b[7:4]` in `resp[3:0]` and nothing above, so the low nibble of `b`
has no influence; at the port its word is `0x510000 | b`. -/
def Obligations.DecodeAnswersTheHighNibble : Prop :=
  ∀ (b : Byte) (s : State),
    (∃ w, Answers (.decode b) s w ∧ w.toNat = b.toNat / 16 ∧
      w.getLsbD 3 = b.getLsbD 7 ∧ w.getLsbD 2 = b.getLsbD 6 ∧ w.getLsbD 1 = b.getLsbD 5 ∧ w.getLsbD 0 = b.getLsbD 4) ∧
    PortServes (0x510000#24 ||| b.setWidth 24) s s.regs.get
      { respValid := true, resp := (b.setWidth 16) >>> 4, ill := false }

/-- R93: decoding the byte that ENCODE answers gives the same four booleans back, on the commands and on the functions, and
two different records never give the same byte. -/
def Obligations.DecodeAfterEncodeIsIdentity : Prop :=
  (∀ (fl : Flags) (s : State), ∃ t w, exec (.encode fl) s = .next t ∧ t.reply = some (.value w) ∧
    ∃ u, exec (.decode (w.extractLsb' 0 8)) t = .next u ∧ ∃ x, u.reply = some (.value x) ∧
      x.getLsbD 3 = fl.zero ∧ x.getLsbD 2 = fl.subtract ∧ x.getLsbD 1 = fl.halfCarry ∧ x.getLsbD 0 = fl.carry) ∧
  (∀ fl : Flags, decodeFlags (encodeFlags fl) = fl) ∧
  (∀ fl fl' : Flags, encodeFlags fl = encodeFlags fl' → fl = fl')

/-- R96 (an inference the spec marks as its own, from R91 and R92): decoding a byte and encoding the record obtained gives
`b & 0xF0`, on the functions and on the commands, whatever the state, and it is `b` exactly when the low nibble of `b` is
zero; no register changes on the way. -/
def Obligations.EncodeAfterDecodeKeepsHighNibble : Prop :=
  (∀ b : Byte, encodeFlags (decodeFlags b) = b &&& 0xF0#8 ∧
    (encodeFlags (decodeFlags b) = b ↔ b.extractLsb' 0 4 = 0#4)) ∧
  (∀ (b : Byte) (s : State), ∃ t w, exec (.decode b) s = .next t ∧ t.reply = some (.value w) ∧
    ∃ u x, exec (.encode ⟨w.getLsbD 3, w.getLsbD 2, w.getLsbD 1, w.getLsbD 0⟩) t = .next u ∧ u.reply = some (.value x) ∧
      x.toNat = b.toNat / 16 * 16 ∧ ∀ r, u.regs.get r = s.regs.get r)

/-- R95 (an inference the spec marks as its own): each boolean of the record and its bit of the byte change together and
change nothing else, in both directions. -/
def Obligations.FlagsAreIndependent : Prop :=
  (∀ fl : Flags,
    encodeFlags { fl with zero := !fl.zero } = encodeFlags fl ^^^ 0x80#8 ∧
    encodeFlags { fl with subtract := !fl.subtract } = encodeFlags fl ^^^ 0x40#8 ∧
    encodeFlags { fl with halfCarry := !fl.halfCarry } = encodeFlags fl ^^^ 0x20#8 ∧
    encodeFlags { fl with carry := !fl.carry } = encodeFlags fl ^^^ 0x10#8) ∧
  (∀ b : Byte,
    decodeFlags (b ^^^ 0x80#8) = { decodeFlags b with zero := !(decodeFlags b).zero } ∧
    decodeFlags (b ^^^ 0x40#8) = { decodeFlags b with subtract := !(decodeFlags b).subtract } ∧
    decodeFlags (b ^^^ 0x20#8) = { decodeFlags b with halfCarry := !(decodeFlags b).halfCarry } ∧
    decodeFlags (b ^^^ 0x10#8) = { decodeFlags b with carry := !(decodeFlags b).carry })

/-- R18: the flags view reads F[7], F[6], F[5] and F[4] and ignores the rest, so do DECODE's booleans; ENCODE produces
those four bits and zeroes bits 3 to 0; and every combination of the four is a valid state of F. -/
def Obligations.FlagsStandAtFixedBits : Prop :=
  (∀ rf : RegFile, rf.flags = ⟨rf.F.getLsbD 7, rf.F.getLsbD 6, rf.F.getLsbD 5, rf.F.getLsbD 4⟩) ∧
  (∀ b : Byte, decodeFlags b = ⟨b.getLsbD 7, b.getLsbD 6, b.getLsbD 5, b.getLsbD 4⟩) ∧
  (∀ fl : Flags, (encodeFlags fl).getLsbD 7 = fl.zero ∧ (encodeFlags fl).getLsbD 6 = fl.subtract ∧
    (encodeFlags fl).getLsbD 5 = fl.halfCarry ∧ (encodeFlags fl).getLsbD 4 = fl.carry ∧
    ∀ n < 4, (encodeFlags fl).getLsbD n = false) ∧
  (∀ (rf : RegFile) (fl : Flags), ∃ v, (rf.set .F v).flags = fl)

/-- R17: all eight bits of F are stored and read back as last written, by an 8-bit write and by a write of AF; bits 3 to 0
are not forced to zero. A write of F with a result of ENCODE leaves them zero. -/
def Obligations.FStoresAllEightBits : Prop :=
  (∀ (s : State) (v : Byte), ∃ t, exec (.setf v) s = .next t ∧ t.regs.get .F = v ∧ Answers .getf t (v.setWidth 16)) ∧
  (∀ (s : State) (v : Half), ∃ t, exec (.setaf v) s = .next t ∧ t.regs.get .A = shiftHigh v ∧ t.regs.get .F = maskLow v ∧
    Answers .getaf t v ∧ Answers .getf t ((maskLow v).setWidth 16)) ∧
  (∀ (fl : Flags) (s : State), ∃ t, exec (.setf (encodeFlags fl)) s = .next t ∧ (t.regs.get .F).extractLsb' 0 4 = 0#4)

/-- R20 (an inference the spec marks as its own): a command that changes a flag is SETF or SETAF. -/
def Obligations.OnlySetfAndSetafChangeFlags : Prop :=
  ∀ (i : Instr) (s t : State), exec i s = .next t → t.regs.flags ≠ s.regs.flags →
    (∃ v, i = .setf v) ∨ (∃ v, i = .setaf v)

/-! ## All commands -/

/-- R13: a write to one register changes that register and no other, a write to a pair changes its two and no other, and the
other commands change none: every command completes, the registers it writes hold what it stores, and every other register
keeps its value. -/
def Obligations.CommandsChangeOnlyWhatTheyWrite : Prop :=
  ∀ (i : Instr) (s : State), ∃ t, exec i s = .next t ∧ OwnKept s t ∧
    (∀ r v, (r, v) ∈ stores i → t.regs.get r = v) ∧ (∀ r, r ∉ writes i → t.regs.get r = s.regs.get r)

/-- R100: none of the 26 commands raises an exception, for any operand value and in any register state. -/
def Obligations.NoCommandRaisesAnException : Prop :=
  ∀ (i : Instr) (s : State), ∃ t, exec i s = .next t ∧ t.illegalSeen = s.illegalSeen ∧
    (t.reply = some .done ∨ ∃ w, t.reply = some (.value w))

/-- R26: what a command answers and what it leaves in the registers depend on the command and on the eight registers only,
not on an earlier response or on anything still to come; and with no command issued the registers keep their values. -/
def Obligations.OutcomeDependsOnRegistersAndCommandOnly : Prop :=
  (∀ (i : Instr) (s s' : State), (∀ r, s.regs.get r = s'.regs.get r) →
    ∃ t t', exec i s = .next t ∧ exec i s' = .next t' ∧ t.regs = t'.regs ∧ t.reply = t'.reply) ∧
  (∀ (INIT : Reg → Byte) (w : CmdWord) (s : State), ∃ t, cycle INIT ⟨false, false, w⟩ s = .next t ∧
    ∀ r, t.regs.get r = s.regs.get r)

/-- R37: the reads and the codec commands change no register, and reading twice gives the same answer if no write came
between; a write issued twice leaves the registers as one does. -/
def Obligations.ReadsAreRepeatableAndWritesIdempotent : Prop :=
  (∀ (i : Instr) (cs : List Instr) (s : State), writes i = [] → (∀ j ∈ cs, writes j = []) →
    ∃ w t, Answers i s w ∧ runCmds (i :: cs) s = some t ∧ (∀ r, t.regs.get r = s.regs.get r) ∧ Answers i t w) ∧
  (∀ (i : Instr) (s : State), writes i ≠ [] →
    ∃ t u, runCmds [i] s = some t ∧ runCmds [i, i] s = some u ∧ u.regs = t.regs)

/-- R39 (an inference the spec marks as its own): the ordering model. After any sequence of commands a read of a register
returns the value of the most recent write that covered it, or the value it started with; and a read of a pair returns the
two such values joined. From a machine just reset, and after a reset cycle in any state, the starting value of `r` is
`INIT[r]`, for every `INIT`. -/
def Obligations.ReadsReturnTheMostRecentWrite : Prop :=
  ∀ cs : List Instr,
    (∀ s : State, ∃ t, runCmds cs s = some t ∧ ReadsMostRecent cs s.regs.get t) ∧
    (∀ INIT : Reg → Byte, ∃ t, runCmds cs (State.resetWith INIT) = some t ∧ ReadsMostRecent cs INIT t) ∧
    (∀ (INIT : Reg → Byte) (valid : Bool) (w : CmdWord) (s : State), ∃ t0 t, cycle INIT ⟨true, valid, w⟩ s = .next t0 ∧
      runCmds cs t0 = some t ∧ ReadsMostRecent cs INIT t)

/-! ## The port and the step -/

/-- R45, decision D2: a step that has a command word to serve runs the command it decodes to, with that word consumed. -/
def Obligations.StepRunsTheDecodedCommand : Prop :=
  ∀ (s : State) (w : CmdWord) (rest : List PortIn) (i : Instr),
    s.pending = presentWord w :: rest → decodeCmd w = .ok i → step s = exec i { s with pending := rest }

/-- R45, R55: the word of a command, placed where the next step takes it, makes that step run exactly the command. (How a
word is placed is the model's own: notes/assumptions/2.md.) -/
def Obligations.PlacedWordIsRunNext : Prop :=
  ∀ (i : Instr) (s : State), step (s.withFetchWord 24 (encodeCmd i).toNat) = exec i s

/-- R38 (decision D18), R39 (an inference the spec marks as its own), R45 (decision D2), with the words of R55: the words of
any command sequence, driven cycle after cycle, have exactly the effect of the commands run one after another in issue
order. That the words to come stand in `pending`, and that one step serves one cycle of them, is the model's choice
(notes/assumptions/2.md, 6.md). -/
def Obligations.PortRunsCommandsInIssueOrder : Prop :=
  ∀ (cs : List Instr) (s : State) (rest : List PortIn),
    s.pending = cs.map (fun i => presentWord (encodeCmd i)) ++ rest →
    ∃ t, runCmds cs { s with pending := rest } = some t ∧ Sys2Proof.core.run cs.length s = .next t

/-- R46, R50, decisions D6, D8: the output wires of every cycle, with and without reset. No command: all zero. A reserved
word: `ill` alone. A command that writes: `resp_valid = 0` and `resp = 0x0000`. Any other command: `resp_valid = 1` and the
value it returns on `resp`. -/
def Obligations.PortOutputsFollowTheOutcome : Prop :=
  ∀ (INIT : Reg → Byte) (inp : PortIn) (s : State), ∃ t, cycle INIT inp s = .next t ∧
    (inp.cmdValid = false → t.outputs = ⟨false, 0x0000#16, false⟩) ∧
    (inp.cmdValid = true → wordWellFormed inp.cmd = false → t.outputs = ⟨false, 0x0000#16, true⟩) ∧
    (∀ i, inp.cmdValid = true → decodeCmd inp.cmd = .ok i →
      (writes i ≠ [] → t.outputs = ⟨false, 0x0000#16, false⟩) ∧
      (writes i = [] → ∃ w, Answers i s w ∧ t.outputs = ⟨true, w, false⟩))

/-- R26, R46, R111: a cycle with `cmd_valid = 0`, and a step for which the master drives nothing, change no register and
assert no output. -/
def Obligations.IdleCycleHoldsTheRegisters : Prop :=
  (∀ (s : State) (w : CmdWord) (rest : List PortIn), s.pending = ⟨false, false, w⟩ :: rest →
    ∃ t, step s = .next t ∧ (∀ r, t.regs.get r = s.regs.get r) ∧ t.outputs = ⟨false, 0#16, false⟩ ∧
      t.pending = rest ∧ t.illegalSeen = s.illegalSeen) ∧
  (∀ s : State, s.pending = [] →
    ∃ t, step s = .next t ∧ (∀ r, t.regs.get r = s.regs.get r) ∧ t.outputs = ⟨false, 0#16, false⟩ ∧
      t.pending = [] ∧ t.illegalSeen = s.illegalSeen)

/-- R46, R101, R107, and R112 (an inference the spec marks as its own): no step faults or is refused, whatever is driven; a
step consumes exactly one cycle of what the master drives; and an outcome comes back exactly in a cycle in which a word is
issued. For a command that is R112's "every cycle in which a command is issued is served"; for a reserved word it rests on
R101 and R107 and on the model's choice to take the exception, where R103 recommends a fault or refusal
(notes/assumptions/4.md). That the cycles to come stand in `pending`, that the outcome is kept in `reply`, and that a step is
one cycle is the model's choice too (notes/assumptions/2.md, 3.md, 6.md). -/
def Obligations.EveryStepServesOneCycle : Prop :=
  ∀ s : State, ∃ t, step s = .next t ∧ t.pending = s.pending.tail ∧
    ∀ inp rest, s.pending = inp :: rest → (t.reply ≠ none ↔ inp.cmdValid = true)

/-- R123 (an inference the spec marks as its own): a step that changes a register resets, or runs a SET that writes it. -/
def Obligations.RegistersChangeOnlyByResetOrSet : Prop :=
  ∀ (s t : State) (r : Reg), step s = .next t → t.regs.get r ≠ s.regs.get r →
    ∃ inp rest, s.pending = inp :: rest ∧
      (inp.rst = true ∨ (inp.cmdValid = true ∧ ∃ i, decodeCmd inp.cmd = .ok i ∧ r ∈ writes i))

/-! ## IllegalCommand -/

/-- R101, R106, decision D5: a reserved word (R54) changes no register and returns no value, the outcome is `illegal` and
`ill` is asserted. That the model keeps the first such word in a mark of its own is notes/assumptions/4.md. -/
def Obligations.ReservedWordRaisesIllegalCommand : Prop :=
  ∀ (s : State) (w : CmdWord) (rest : List PortIn),
    s.pending = presentWord w :: rest → wordWellFormed w = false →
    ∃ t, step s = .next t ∧ (∀ r, t.regs.get r = s.regs.get r) ∧ t.reply = some (.illegal w) ∧
      t.outputs = ⟨false, 0x0000#16, true⟩ ∧ t.pending = rest ∧
      t.illegalSeen = (match s.illegalSeen with | some w0 => some w0 | none => some w)

/-- R107, decision D14: `ill` is not sticky. After any number of reserved words the next command has the registers, the
outcome and the outputs it would have had without them. -/
def Obligations.BlockGoesOnAfterReservedWords : Prop :=
  ∀ (ws : List CmdWord) (i : Instr) (s : State) (rest : List PortIn),
    (∀ w ∈ ws, wordWellFormed w = false) →
    s.pending = ws.map presentWord ++ presentWord (encodeCmd i) :: rest →
    ∃ t u, Sys2Proof.core.run (ws.length + 1) s = .next t ∧ exec i s = .next u ∧
      t.regs = u.regs ∧ t.reply = u.reply ∧ t.outputs.ill = false ∧ t.pending = rest

/-- The conservative step faults exactly on a reserved word and is `step` everywhere else. `strictStep` is the model's own
construct (notes/assumptions/4.md): R103 and decision D5 recommend "a fault or refusal of the step" for a reserved word, and
the model's choice among the two is a fault. It is the model's choice as well that `strictStep` faults on a reserved word
presented in a reset cycle, where R105 says that the word does not matter to the next state. -/
def Obligations.StrictStepFaultsExactlyOnReservedWords : Prop :=
  ∀ s : State,
    (∀ inp rest, s.pending = inp :: rest → inp.cmdValid = true → wordWellFormed inp.cmd = false →
      strictStep s = .fault (.illegalCommand inp.cmd)) ∧
    ((∀ inp rest, s.pending = inp :: rest → inp.cmdValid = true → wordWellFormed inp.cmd = true) →
      strictStep s = step s)

/-- R101, R102, R107: the mark tells the truth, an invariant every step keeps; once set it never changes; and a safe machine
that is given no reserved word stays safe. The mark is the model's own (notes/assumptions/4.md). -/
def Obligations.EveryStepKeepsTheMarkSound : Prop :=
  ∀ s : State, MarkSound s → ∃ t, step s = .next t ∧ MarkSound t ∧
    (s.illegalSeen ≠ none → t.illegalSeen = s.illegalSeen) ∧
    (Safe s → (∀ inp rest, s.pending = inp :: rest → inp.cmdValid = true → wordWellFormed inp.cmd = true) → Safe t)

/-- The mark is sound right after reset, and the machine is safe there (the mark is the model's own: notes/assumptions/4.md). -/
def Obligations.MarkIsSoundAfterReset : Prop :=
  ∀ INIT : Reg → Byte, MarkSound (State.resetWith INIT) ∧ Safe (State.resetWith INIT)

/-! ## Reset -/

/-- R27, R28, R120, and R122 (an inference the spec marks as its own): right after reset every register holds its `INIT`
value, so the low nibble of F is that of `INIT.F`, the flags are bits 7 to 4 of `INIT.F`, and every register read answers
`INIT`, for every `INIT`. The machine's reset state is the one of its own open constant `Config.INIT` (the model's choice,
notes/assumptions/1.md). That nothing is pending there, that there is no reply and that the mark is clear is the model's
choice (notes/assumptions/2.md, 3.md, 4.md). -/
def Obligations.ResetStateHoldsINIT : Prop :=
  (∀ INIT : Reg → Byte, (∀ r, (State.resetWith INIT).regs.get r = INIT r) ∧
    (State.resetWith INIT).regs.flags =
      ⟨(INIT .F).getLsbD 7, (INIT .F).getLsbD 6, (INIT .F).getLsbD 5, (INIT .F).getLsbD 4⟩ ∧
    (∀ row ∈ regRows, Answers row.read (State.resetWith INIT) ((INIT row.reg).setWidth 16)) ∧
    (State.resetWith INIT).pending = [] ∧ (State.resetWith INIT).reply = none ∧
    (State.resetWith INIT).illegalSeen = none) ∧
  State.reset = State.resetWith Config.INIT ∧ (∀ r, State.reset.regs.get r = Config.INIT r)

/-- R46, R105, R120, R121, decisions D1, D11: a cycle with `rst = 1` loads `INIT` into all eight registers whatever is on the
command wires, every time the same values, while the outputs of that cycle stay those of the command and the old state. A
step of the machine whose next cycle has `rst = 1` serves it so, with its own `Config.INIT` (the model's choice,
notes/assumptions/1.md; that the cycles stand in `pending` is notes/assumptions/2.md). -/
def Obligations.ResetWinsOverACommand : Prop :=
  (∀ (INIT : Reg → Byte) (valid : Bool) (w : CmdWord) (s : State),
    ∃ t u, cycle INIT ⟨true, valid, w⟩ s = .next t ∧ cycle INIT ⟨false, valid, w⟩ s = .next u ∧
      (∀ r, t.regs.get r = INIT r) ∧ t.outputs = u.outputs ∧ t.pending = s.pending) ∧
  (∀ (valid : Bool) (w : CmdWord) (rest : List PortIn) (s : State), s.pending = ⟨true, valid, w⟩ :: rest →
    ∃ t u, step s = .next t ∧ step { s with pending := ⟨false, valid, w⟩ :: rest } = .next u ∧
      (∀ r, t.regs.get r = Config.INIT r) ∧ t.outputs = u.outputs ∧ t.pending = rest)

/-- R124, R125 (inferences the spec marks as its own): the four pair writes, in any order and whatever the registers held,
put the whole block in the state they name. -/
def Obligations.FourPairWritesMakeTheStateKnown : Prop :=
  ∀ (a b d h : Half) (cs : List Instr) (s : State), cs.Perm [.setaf a, .setbc b, .setde d, .sethl h] →
    ∃ t, runCmds cs s = some t ∧ t.regs = ⟨shiftHigh a, maskLow a, shiftHigh b, maskLow b, shiftHigh d, maskLow d,
      shiftHigh h, maskLow h⟩

/-! ## The master -/

/-- R129 (an inference the spec marks as its own): F[3:0] = 0 is an invariant of every step for a master that writes F only
with results of ENCODE, masks every SETAF with 0xFFF0, and does not reset. -/
def Obligations.NibbleDisciplineIsKept : Prop :=
  ∀ s : State, NibbleDiscipline s → ∃ t, step s = .next t ∧ NibbleDiscipline t

/-- R57, decision D12: `GETFLAGS` answers the four flags of F in `resp[3:0]` and changes nothing. -/
def Obligations.GetflagsAnswersTheFlagsOfF : Prop :=
  ∀ s : State, ∃ t w, runLines getflagsLines s = some t ∧ t.reply = some (.value w) ∧
    w.getLsbD 3 = s.regs.F.getLsbD 7 ∧ w.getLsbD 2 = s.regs.F.getLsbD 6 ∧ w.getLsbD 1 = s.regs.F.getLsbD 5 ∧
    w.getLsbD 0 = s.regs.F.getLsbD 4 ∧ w.toNat < 16 ∧ (∀ r, t.regs.get r = s.regs.get r) ∧ OwnKept s t

/-- R58, decision D12: `SETFLAGS z,s,hc,c` writes the four flags to F and zero to its low nibble, and nothing else. -/
def Obligations.SetflagsWritesTheFlagsOfF : Prop :=
  ∀ (fl : Flags) (s : State), ∃ t,
    runLines (setflagsLines (bit fl.zero) (bit fl.subtract) (bit fl.halfCarry) (bit fl.carry)) s = some t ∧
    (t.regs.get .F).toNat = 128 * bit fl.zero + 64 * bit fl.subtract + 32 * bit fl.halfCarry + 16 * bit fl.carry ∧
    (∀ r, r ≠ .F → t.regs.get r = s.regs.get r) ∧ OwnKept s t

/-- R59, decision D12: `NORMF` clears bits 3 to 0 of F, keeps the four flags and changes nothing else. -/
def Obligations.NormfClearsTheLowNibbleOfF : Prop :=
  ∀ s : State, ∃ t, runLines normfLines s = some t ∧ t.regs.get .F = s.regs.F &&& 0xF0#8 ∧
    t.regs.flags = s.regs.flags ∧ (∀ r, r ≠ .F → t.regs.get r = s.regs.get r) ∧ OwnKept s t

/-- R94, R128: the flags cycle. The master reads F, decodes the byte read, changes the record in any way, encodes it and
writes the byte obtained to F: the new flags are the changed record, F[3:0] is zero and no other register changes. -/
def Obligations.FlagsCycleClearsTheLowNibble : Prop :=
  ∀ (change : Flags → Flags) (s : State), ∃ t1 w1 t2 w2 t3 w3 t4,
    exec .getf s = .next t1 ∧ t1.reply = some (.value w1) ∧
    exec (.decode (w1.extractLsb' 0 8)) t1 = .next t2 ∧ t2.reply = some (.value w2) ∧
    exec (.encode (change ⟨w2.getLsbD 3, w2.getLsbD 2, w2.getLsbD 1, w2.getLsbD 0⟩)) t2 = .next t3 ∧
    t3.reply = some (.value w3) ∧ exec (.setf (w3.extractLsb' 0 8)) t3 = .next t4 ∧
    t4.regs.flags = change s.regs.flags ∧ (t4.regs.get .F).extractLsb' 0 4 = 0#4 ∧
    (∀ r, r ≠ .F → t4.regs.get r = s.regs.get r)

/-- R56, decision D12: the line of every command assembles to the command. -/
def Obligations.EveryCommandAssembles : Prop :=
  ∀ (i : Instr) (prev : Option Half), assemble prev ⟨i.mnemonic, operandsOf i⟩ = some i

/-- R56, decision D12: for each of the 14 mnemonics that take an operand, "A literal out of range is an assembly error, not a
command", and `$` stands for the low bits of the previous response: `resp[7:0]` as `v8`, `resp[15:0]` as `v16`,
`resp[3],resp[2],resp[1],resp[0]` as `z,s,hc,c`. A `$` line after a line that answers runs the command with that answer.
That `$` with no previous response is an assembly error, with any mnemonic, after a cycle with no command or a line that
returns no value, is the model's choice (notes/assumptions/5.md). -/
def Obligations.AssemblerChecksLiteralsAndCarriesResponses : Prop :=
  (∀ p ∈ byteLines, ∀ (prev : Option Half) (n : Nat), 255 < n → assemble prev ⟨p.1, [.lit n]⟩ = none) ∧
  (∀ p ∈ halfLines, ∀ (prev : Option Half) (n : Nat), 65535 < n → assemble prev ⟨p.1, [.lit n]⟩ = none) ∧
  (∀ (prev : Option Half) (z s hc c : Nat), 1 < z ∨ 1 < s ∨ 1 < hc ∨ 1 < c →
    assemble prev ⟨"ENCODE", [.lit z, .lit s, .lit hc, .lit c]⟩ = none) ∧
  (∀ w : Half,
    (∀ p ∈ byteLines, assemble (some w) ⟨p.1, [.dollar]⟩ = some (p.2 (w.extractLsb' 0 8))) ∧
    (∀ p ∈ halfLines, assemble (some w) ⟨p.1, [.dollar]⟩ = some (p.2 w)) ∧
    assemble (some w) ⟨"ENCODE", [.dollar]⟩ =
      some (.encode ⟨w.getLsbD 3, w.getLsbD 2, w.getLsbD 1, w.getLsbD 0⟩)) ∧
  (∀ (i j : Instr) (m : String) (s : State) (w : Half), Answers i s w → assemble (some w) ⟨m, [.dollar]⟩ = some j →
    ∃ u, runCmds [i, j] s = some u ∧ runLines [lineOf i, ⟨m, [.dollar]⟩] s = some u) ∧
  (∀ m : String, assemble none ⟨m, [.dollar]⟩ = none) ∧
  (∀ (m : String) (s : State) (rest : List Line), s.reply = none → runLines (⟨m, [.dollar]⟩ :: rest) s = none) ∧
  (∀ (i : Instr) (m : String) (s : State) (rest : List Line), writes i ≠ [] →
    runLines (lineOf i :: ⟨m, [.dollar]⟩ :: rest) s = none)
end

