-- ==== Sys2Proof/Laws/Decode.lean ====
section
/-! SUPPORT. The fields of a command word as numbers, and the numberings and wire packing as one-to-one maps. -/

namespace Sys2Proof

theorem toNat_fieldCls (w : CmdWord) : (fieldCls w).toNat = w.toNat / 0x100000 := by
  have := w.isLt
  simp [fieldCls, Nat.shiftRight_eq_div_pow]
  omega

theorem toNat_fieldSel (w : CmdWord) : (fieldSel w).toNat = w.toNat / 0x10000 % 16 := by
  simp [fieldSel, Nat.shiftRight_eq_div_pow]

theorem toNat_fieldImm (w : CmdWord) : (fieldImm w).toNat = w.toNat % 0x10000 := by
  simp [fieldImm]

/-- A word put together from its three fields, as a number (R47). -/
theorem toNat_word (c s : BitVec 4) (m : Half) :
    (c ++ s ++ m : CmdWord).toNat = c.toNat * 0x100000 + s.toNat * 0x10000 + m.toNat := by
  have h1 : (c ++ s ++ m : CmdWord).toNat = (c ++ s).toNat <<< 16 ||| m.toNat := BitVec.toNat_append (c ++ s) m
  have h2 : (c ++ s).toNat = c.toNat <<< 4 ||| s.toNat := BitVec.toNat_append c s
  rw [h1, h2, ← Nat.shiftLeft_add_eq_or_of_lt m.isLt, ← Nat.shiftLeft_add_eq_or_of_lt s.isLt,
    Nat.shiftLeft_eq, Nat.shiftLeft_eq]
  omega

/-- The three fields make up the whole word (R47). -/
theorem word_eq_fields (w : CmdWord) : fieldCls w ++ fieldSel w ++ fieldImm w = w := by
  apply BitVec.eq_of_toNat_eq
  rw [toNat_word, toNat_fieldCls, toNat_fieldSel, toNat_fieldImm]
  omega

/-- Taking the fields of a word put together from fields gives them back. -/
theorem fields_of_word (c s : BitVec 4) (m : Half) :
    fieldCls (c ++ s ++ m) = c ∧ fieldSel (c ++ s ++ m) = s ∧ fieldImm (c ++ s ++ m) = m := by
  have hc := c.isLt
  have hs := s.isLt
  have hm := m.isLt
  refine ⟨?_, ?_, ?_⟩ <;> apply BitVec.eq_of_toNat_eq
  · rw [toNat_fieldCls, toNat_word]; omega
  · rw [toNat_fieldSel, toNat_word]; omega
  · rw [toNat_fieldImm, toNat_word]; omega

theorem Reg.ofNumber_number (r : Reg) : Reg.ofNumber r.number = r := by cases r <;> rfl

theorem Reg.number_ofNumber (n : BitVec 3) : (Reg.ofNumber n).number = n := by revert n; decide

theorem Pair.ofNumber_number (p : Pair) : Pair.ofNumber p.number = p := by cases p <;> rfl

theorem Pair.number_ofNumber (n : BitVec 2) : (Pair.ofNumber n).number = n := by revert n; decide

theorem Flags.unpack_pack (fl : Flags) : Flags.unpack fl.pack = fl := by
  obtain ⟨z, s, hc, c⟩ := fl
  revert z s hc c
  decide

theorem Flags.pack_unpack (n : BitVec 4) : (Flags.unpack n).pack = n := by revert n; decide

end Sys2Proof
end

