-- ==== Sys2Proof/Laws/State.lean ====
section
/-! SUPPORT. One lemma per field per update of State, and per register per write of RegFile, each true by rfl. -/

namespace Sys2Proof.Machine

@[simp] theorem State.complete_regs (s : State) (x : RegFile × Reply) : (s.complete x).regs = x.1 := rfl
@[simp] theorem State.complete_pending (s : State) (x : RegFile × Reply) : (s.complete x).pending = s.pending := rfl
@[simp] theorem State.complete_reply (s : State) (x : RegFile × Reply) : (s.complete x).reply = some x.2 := rfl
@[simp] theorem State.complete_illegalSeen (s : State) (x : RegFile × Reply) : (s.complete x).illegalSeen = s.illegalSeen := rfl

@[simp] theorem State.idle_regs (s : State) : (s.idle).regs = s.regs := rfl
@[simp] theorem State.idle_pending (s : State) : (s.idle).pending = s.pending := rfl
@[simp] theorem State.idle_reply (s : State) : (s.idle).reply = none := rfl
@[simp] theorem State.idle_illegalSeen (s : State) : (s.idle).illegalSeen = s.illegalSeen := rfl

@[simp] theorem State.takeIllegalCommand_regs (s : State) (w : CmdWord) : (s.takeIllegalCommand w).regs = s.regs := rfl
@[simp] theorem State.takeIllegalCommand_pending (s : State) (w : CmdWord) : (s.takeIllegalCommand w).pending = s.pending := rfl
@[simp] theorem State.takeIllegalCommand_reply (s : State) (w : CmdWord) : (s.takeIllegalCommand w).reply = some (.illegal w) := rfl
@[simp] theorem State.takeIllegalCommand_illegalSeen (s : State) (w : CmdWord) : (s.takeIllegalCommand w).illegalSeen = s.illegalSeen.or (some w) := rfl

@[simp] theorem State.resetRegs_regs (s : State) (INIT : Reg → Byte) : (s.resetRegs INIT).regs = RegFile.ofInit INIT := rfl
@[simp] theorem State.resetRegs_pending (s : State) (INIT : Reg → Byte) : (s.resetRegs INIT).pending = s.pending := rfl
@[simp] theorem State.resetRegs_reply (s : State) (INIT : Reg → Byte) : (s.resetRegs INIT).reply = s.reply := rfl
@[simp] theorem State.resetRegs_illegalSeen (s : State) (INIT : Reg → Byte) : (s.resetRegs INIT).illegalSeen = s.illegalSeen := rfl

@[simp] theorem State.withFetchWord_regs (s : State) (n w : Nat) : (s.withFetchWord n w).regs = s.regs := rfl
@[simp] theorem State.withFetchWord_pending (s : State) (n w : Nat) : (s.withFetchWord n w).pending = presentWord (BitVec.ofNat 24 (w % 2 ^ n)) :: s.pending := rfl
@[simp] theorem State.withFetchWord_reply (s : State) (n w : Nat) : (s.withFetchWord n w).reply = s.reply := rfl
@[simp] theorem State.withFetchWord_illegalSeen (s : State) (n w : Nat) : (s.withFetchWord n w).illegalSeen = s.illegalSeen := rfl

@[simp] theorem State.resetWith_regs (INIT : Reg → Byte) : (State.resetWith INIT).regs = RegFile.ofInit INIT := rfl
@[simp] theorem State.resetWith_pending (INIT : Reg → Byte) : (State.resetWith INIT).pending = [] := rfl
@[simp] theorem State.resetWith_reply (INIT : Reg → Byte) : (State.resetWith INIT).reply = none := rfl
@[simp] theorem State.resetWith_illegalSeen (INIT : Reg → Byte) : (State.resetWith INIT).illegalSeen = none := rfl

@[simp] theorem State.reset_regs : State.reset.regs = RegFile.ofInit Config.INIT := rfl
@[simp] theorem State.reset_pending : State.reset.pending = [] := rfl
@[simp] theorem State.reset_reply : State.reset.reply = none := rfl
@[simp] theorem State.reset_illegalSeen : State.reset.illegalSeen = none := rfl

@[simp] theorem RegFile.get_A (rf : RegFile) : rf.get .A = rf.A := rfl
@[simp] theorem RegFile.get_F (rf : RegFile) : rf.get .F = rf.F := rfl
@[simp] theorem RegFile.get_B (rf : RegFile) : rf.get .B = rf.B := rfl
@[simp] theorem RegFile.get_C (rf : RegFile) : rf.get .C = rf.C := rfl
@[simp] theorem RegFile.get_D (rf : RegFile) : rf.get .D = rf.D := rfl
@[simp] theorem RegFile.get_E (rf : RegFile) : rf.get .E = rf.E := rfl
@[simp] theorem RegFile.get_H (rf : RegFile) : rf.get .H = rf.H := rfl
@[simp] theorem RegFile.get_L (rf : RegFile) : rf.get .L = rf.L := rfl

@[simp] theorem RegFile.set_A_A (rf : RegFile) (v : Byte) : (rf.set .A v).A = v := rfl
@[simp] theorem RegFile.set_A_F (rf : RegFile) (v : Byte) : (rf.set .A v).F = rf.F := rfl
@[simp] theorem RegFile.set_A_B (rf : RegFile) (v : Byte) : (rf.set .A v).B = rf.B := rfl
@[simp] theorem RegFile.set_A_C (rf : RegFile) (v : Byte) : (rf.set .A v).C = rf.C := rfl
@[simp] theorem RegFile.set_A_D (rf : RegFile) (v : Byte) : (rf.set .A v).D = rf.D := rfl
@[simp] theorem RegFile.set_A_E (rf : RegFile) (v : Byte) : (rf.set .A v).E = rf.E := rfl
@[simp] theorem RegFile.set_A_H (rf : RegFile) (v : Byte) : (rf.set .A v).H = rf.H := rfl
@[simp] theorem RegFile.set_A_L (rf : RegFile) (v : Byte) : (rf.set .A v).L = rf.L := rfl
@[simp] theorem RegFile.set_F_A (rf : RegFile) (v : Byte) : (rf.set .F v).A = rf.A := rfl
@[simp] theorem RegFile.set_F_F (rf : RegFile) (v : Byte) : (rf.set .F v).F = v := rfl
@[simp] theorem RegFile.set_F_B (rf : RegFile) (v : Byte) : (rf.set .F v).B = rf.B := rfl
@[simp] theorem RegFile.set_F_C (rf : RegFile) (v : Byte) : (rf.set .F v).C = rf.C := rfl
@[simp] theorem RegFile.set_F_D (rf : RegFile) (v : Byte) : (rf.set .F v).D = rf.D := rfl
@[simp] theorem RegFile.set_F_E (rf : RegFile) (v : Byte) : (rf.set .F v).E = rf.E := rfl
@[simp] theorem RegFile.set_F_H (rf : RegFile) (v : Byte) : (rf.set .F v).H = rf.H := rfl
@[simp] theorem RegFile.set_F_L (rf : RegFile) (v : Byte) : (rf.set .F v).L = rf.L := rfl
@[simp] theorem RegFile.set_B_A (rf : RegFile) (v : Byte) : (rf.set .B v).A = rf.A := rfl
@[simp] theorem RegFile.set_B_F (rf : RegFile) (v : Byte) : (rf.set .B v).F = rf.F := rfl
@[simp] theorem RegFile.set_B_B (rf : RegFile) (v : Byte) : (rf.set .B v).B = v := rfl
@[simp] theorem RegFile.set_B_C (rf : RegFile) (v : Byte) : (rf.set .B v).C = rf.C := rfl
@[simp] theorem RegFile.set_B_D (rf : RegFile) (v : Byte) : (rf.set .B v).D = rf.D := rfl
@[simp] theorem RegFile.set_B_E (rf : RegFile) (v : Byte) : (rf.set .B v).E = rf.E := rfl
@[simp] theorem RegFile.set_B_H (rf : RegFile) (v : Byte) : (rf.set .B v).H = rf.H := rfl
@[simp] theorem RegFile.set_B_L (rf : RegFile) (v : Byte) : (rf.set .B v).L = rf.L := rfl
@[simp] theorem RegFile.set_C_A (rf : RegFile) (v : Byte) : (rf.set .C v).A = rf.A := rfl
@[simp] theorem RegFile.set_C_F (rf : RegFile) (v : Byte) : (rf.set .C v).F = rf.F := rfl
@[simp] theorem RegFile.set_C_B (rf : RegFile) (v : Byte) : (rf.set .C v).B = rf.B := rfl
@[simp] theorem RegFile.set_C_C (rf : RegFile) (v : Byte) : (rf.set .C v).C = v := rfl
@[simp] theorem RegFile.set_C_D (rf : RegFile) (v : Byte) : (rf.set .C v).D = rf.D := rfl
@[simp] theorem RegFile.set_C_E (rf : RegFile) (v : Byte) : (rf.set .C v).E = rf.E := rfl
@[simp] theorem RegFile.set_C_H (rf : RegFile) (v : Byte) : (rf.set .C v).H = rf.H := rfl
@[simp] theorem RegFile.set_C_L (rf : RegFile) (v : Byte) : (rf.set .C v).L = rf.L := rfl
@[simp] theorem RegFile.set_D_A (rf : RegFile) (v : Byte) : (rf.set .D v).A = rf.A := rfl
@[simp] theorem RegFile.set_D_F (rf : RegFile) (v : Byte) : (rf.set .D v).F = rf.F := rfl
@[simp] theorem RegFile.set_D_B (rf : RegFile) (v : Byte) : (rf.set .D v).B = rf.B := rfl
@[simp] theorem RegFile.set_D_C (rf : RegFile) (v : Byte) : (rf.set .D v).C = rf.C := rfl
@[simp] theorem RegFile.set_D_D (rf : RegFile) (v : Byte) : (rf.set .D v).D = v := rfl
@[simp] theorem RegFile.set_D_E (rf : RegFile) (v : Byte) : (rf.set .D v).E = rf.E := rfl
@[simp] theorem RegFile.set_D_H (rf : RegFile) (v : Byte) : (rf.set .D v).H = rf.H := rfl
@[simp] theorem RegFile.set_D_L (rf : RegFile) (v : Byte) : (rf.set .D v).L = rf.L := rfl
@[simp] theorem RegFile.set_E_A (rf : RegFile) (v : Byte) : (rf.set .E v).A = rf.A := rfl
@[simp] theorem RegFile.set_E_F (rf : RegFile) (v : Byte) : (rf.set .E v).F = rf.F := rfl
@[simp] theorem RegFile.set_E_B (rf : RegFile) (v : Byte) : (rf.set .E v).B = rf.B := rfl
@[simp] theorem RegFile.set_E_C (rf : RegFile) (v : Byte) : (rf.set .E v).C = rf.C := rfl
@[simp] theorem RegFile.set_E_D (rf : RegFile) (v : Byte) : (rf.set .E v).D = rf.D := rfl
@[simp] theorem RegFile.set_E_E (rf : RegFile) (v : Byte) : (rf.set .E v).E = v := rfl
@[simp] theorem RegFile.set_E_H (rf : RegFile) (v : Byte) : (rf.set .E v).H = rf.H := rfl
@[simp] theorem RegFile.set_E_L (rf : RegFile) (v : Byte) : (rf.set .E v).L = rf.L := rfl
@[simp] theorem RegFile.set_H_A (rf : RegFile) (v : Byte) : (rf.set .H v).A = rf.A := rfl
@[simp] theorem RegFile.set_H_F (rf : RegFile) (v : Byte) : (rf.set .H v).F = rf.F := rfl
@[simp] theorem RegFile.set_H_B (rf : RegFile) (v : Byte) : (rf.set .H v).B = rf.B := rfl
@[simp] theorem RegFile.set_H_C (rf : RegFile) (v : Byte) : (rf.set .H v).C = rf.C := rfl
@[simp] theorem RegFile.set_H_D (rf : RegFile) (v : Byte) : (rf.set .H v).D = rf.D := rfl
@[simp] theorem RegFile.set_H_E (rf : RegFile) (v : Byte) : (rf.set .H v).E = rf.E := rfl
@[simp] theorem RegFile.set_H_H (rf : RegFile) (v : Byte) : (rf.set .H v).H = v := rfl
@[simp] theorem RegFile.set_H_L (rf : RegFile) (v : Byte) : (rf.set .H v).L = rf.L := rfl
@[simp] theorem RegFile.set_L_A (rf : RegFile) (v : Byte) : (rf.set .L v).A = rf.A := rfl
@[simp] theorem RegFile.set_L_F (rf : RegFile) (v : Byte) : (rf.set .L v).F = rf.F := rfl
@[simp] theorem RegFile.set_L_B (rf : RegFile) (v : Byte) : (rf.set .L v).B = rf.B := rfl
@[simp] theorem RegFile.set_L_C (rf : RegFile) (v : Byte) : (rf.set .L v).C = rf.C := rfl
@[simp] theorem RegFile.set_L_D (rf : RegFile) (v : Byte) : (rf.set .L v).D = rf.D := rfl
@[simp] theorem RegFile.set_L_E (rf : RegFile) (v : Byte) : (rf.set .L v).E = rf.E := rfl
@[simp] theorem RegFile.set_L_H (rf : RegFile) (v : Byte) : (rf.set .L v).H = rf.H := rfl
@[simp] theorem RegFile.set_L_L (rf : RegFile) (v : Byte) : (rf.set .L v).L = v := rfl

@[simp] theorem RegFile.ofInit_A (INIT : Reg → Byte) : (RegFile.ofInit INIT).A = INIT .A := rfl
@[simp] theorem RegFile.ofInit_F (INIT : Reg → Byte) : (RegFile.ofInit INIT).F = INIT .F := rfl
@[simp] theorem RegFile.ofInit_B (INIT : Reg → Byte) : (RegFile.ofInit INIT).B = INIT .B := rfl
@[simp] theorem RegFile.ofInit_C (INIT : Reg → Byte) : (RegFile.ofInit INIT).C = INIT .C := rfl
@[simp] theorem RegFile.ofInit_D (INIT : Reg → Byte) : (RegFile.ofInit INIT).D = INIT .D := rfl
@[simp] theorem RegFile.ofInit_E (INIT : Reg → Byte) : (RegFile.ofInit INIT).E = INIT .E := rfl
@[simp] theorem RegFile.ofInit_H (INIT : Reg → Byte) : (RegFile.ofInit INIT).H = INIT .H := rfl
@[simp] theorem RegFile.ofInit_L (INIT : Reg → Byte) : (RegFile.ofInit INIT).L = INIT .L := rfl

end Sys2Proof.Machine
end

