-- ==== Sys2Proof/Laws/Ops.lean ====
section
/-! SUPPORT. What each shared operation does, said once: register and pair access, the outcome of a command, one step. -/

namespace Sys2Proof.Machine

/-- Two register files with the same eight values are the same. -/
theorem RegFile.ext_get {a b : RegFile} (h : ∀ r, a.get r = b.get r) : a = b := by
  cases a; cases b
  simp only [RegFile.mk.injEq]
  exact ⟨h .A, h .F, h .B, h .C, h .D, h .E, h .H, h .L⟩

/-- All a write of one register does. -/
theorem RegFile.get_set (rf : RegFile) (r q : Reg) (v : Byte) :
    (rf.set r v).get q = if q = r then v else rf.get q := by
  cases r <;> cases q <;> rfl

/-- All a write of a pair does. -/
theorem RegFile.get_setPair (rf : RegFile) (p : Pair) (q : Reg) (v : Half) :
    (rf.setPair p v).get q =
      if q = highReg p then highByte v else if q = lowReg p then lowByte v else rf.get q := by
  cases p <;> cases q <;> rfl

/-- After reset register `r` holds `INIT r`. -/
theorem RegFile.get_ofInit (INIT : Reg → Byte) (r : Reg) : (RegFile.ofInit INIT).get r = INIT r := by
  cases r <;> rfl

/-- The two registers of a pair are different ones. -/
theorem highReg_ne_lowReg (p : Pair) : highReg p ≠ lowReg p := by cases p <;> decide

/-- A joined pair of bytes as a number: no bit is lost and nothing wraps (R140). -/
theorem toNat_joinBytes (h l : Byte) : (joinBytes h l).toNat = h.toNat * 256 + l.toNat := by
  have : (joinBytes h l).toNat = h.toNat <<< 8 ||| l.toNat := BitVec.toNat_append h l
  rw [this, ← Nat.shiftLeft_add_eq_or_of_lt l.isLt, Nat.shiftLeft_eq]

/-- The high half of a 16-bit value as a number (R140). -/
theorem toNat_highByte (v : Half) : (highByte v).toNat = v.toNat / 256 := by
  have := v.isLt
  simp [highByte, Nat.shiftRight_eq_div_pow]
  omega

/-- The low half of a 16-bit value as a number (R140). -/
theorem toNat_lowByte (v : Half) : (lowByte v).toNat = v.toNat % 256 := by
  simp [lowByte]

/-- Joining two bytes and taking the high half gives the high byte back. -/
theorem highByte_joinBytes (h l : Byte) : highByte (joinBytes h l) = h := by
  apply BitVec.eq_of_toNat_eq
  rw [toNat_highByte, toNat_joinBytes]
  have := l.isLt
  omega

/-- Joining two bytes and taking the low half gives the low byte back. -/
theorem lowByte_joinBytes (h l : Byte) : lowByte (joinBytes h l) = l := by
  apply BitVec.eq_of_toNat_eq
  rw [toNat_lowByte, toNat_joinBytes]
  have := l.isLt
  omega

/-- Splitting a half-word and joining the halves gives it back. -/
theorem joinBytes_halves (v : Half) : joinBytes (highByte v) (lowByte v) = v := by
  apply BitVec.eq_of_toNat_eq
  rw [toNat_joinBytes, toNat_highByte, toNat_lowByte]
  omega

/-- The registers and the outcome a command gives, as one function of the command and the registers. -/
def effect : Instr → RegFile → RegFile × Reply
  | .geta => readReg .A
  | .getf => readReg .F
  | .getb => readReg .B
  | .getc => readReg .C
  | .getd => readReg .D
  | .gete => readReg .E
  | .geth => readReg .H
  | .getl => readReg .L
  | .seta v => writeReg .A v
  | .setf v => writeReg .F v
  | .setb v => writeReg .B v
  | .setc v => writeReg .C v
  | .setd v => writeReg .D v
  | .sete v => writeReg .E v
  | .seth v => writeReg .H v
  | .setl v => writeReg .L v
  | .getaf => readPair .AF
  | .getbc => readPair .BC
  | .getde => readPair .DE
  | .gethl => readPair .HL
  | .setaf v => writePair .AF v
  | .setbc v => writePair .BC v
  | .setde v => writePair .DE v
  | .sethl v => writePair .HL v
  | .encode fl => answerEncode fl
  | .decode b => answerDecode b

/-- Everything a command does: it completes, and its registers and outcome are `effect`'s. -/
theorem exec_eq (i : Instr) (s : State) : exec i s = .next (s.complete (effect i s.regs)) := by
  cases i <;> rfl

/-- The outcome of a command is never `illegal`. -/
theorem effect_reply_ne_illegal (i : Instr) (rf : RegFile) (w : CmdWord) : (effect i rf).2 ≠ .illegal w := by
  cases i <;> exact fun h => nomatch h

/-- Everything an issued word does. -/
theorem issueWord_cases (w : CmdWord) (s : State) :
    (∃ i, decodeCmd w = .ok i ∧ issueWord w s = .next (s.complete (effect i s.regs))) ∨
    (∃ r, decodeCmd w = .error r ∧ issueWord w s = .next (s.takeIllegalCommand w)) := by
  unfold issueWord
  cases h : decodeCmd w with
  | ok i => exact .inl ⟨i, rfl, exec_eq i s⟩
  | error r => exact .inr ⟨r, rfl, rfl⟩

/-- Everything one step does: nothing is driven, or one cycle idles, runs a command or takes IllegalCommand, and then
resets the registers if it drives `rst`. -/
theorem stepWith_cases (INIT : Reg → Byte) (s : State) :
    (s.pending = [] ∧ stepWith INIT s = .next s.idle) ∨
    (∃ inp rest t, s.pending = inp :: rest ∧
      ((inp.cmdValid = false ∧ t = ({ s with pending := rest } : State).idle) ∨
       (∃ i, inp.cmdValid = true ∧ decodeCmd inp.cmd = .ok i ∧
         t = ({ s with pending := rest } : State).complete (effect i s.regs)) ∨
       (∃ r, inp.cmdValid = true ∧ decodeCmd inp.cmd = .error r ∧
         t = ({ s with pending := rest } : State).takeIllegalCommand inp.cmd)) ∧
      stepWith INIT s = .next (if inp.rst then t.resetRegs INIT else t)) := by
  unfold stepWith
  cases hp : s.pending with
  | nil => exact .inl ⟨rfl, rfl⟩
  | cons inp rest =>
    refine .inr ⟨inp, rest, ?_⟩
    simp only [cycle, serve]
    by_cases hv : inp.cmdValid = true
    · obtain ⟨i, hd, hi⟩ | ⟨r, hd, hi⟩ := issueWord_cases inp.cmd { s with pending := rest }
      · exact ⟨_, trivial, .inr (.inl ⟨i, hv, hd, rfl⟩), by simp only [hv, if_true, hi]; rfl⟩
      · exact ⟨_, trivial, .inr (.inr ⟨r, hv, hd, rfl⟩), by simp only [hv, if_true, hi]; rfl⟩
    · exact ⟨_, trivial, .inl ⟨by simpa using hv, rfl⟩, by simp only [if_neg hv]; rfl⟩

end Sys2Proof.Machine
end

