-- ==== Sys2Proof/Laws/Master.lean ====
section
/-! SUPPORT. What running a line of the master's does, so that no proof about `$` or a pseudo-command unfolds `runLines`. -/

namespace Sys2Proof.Machine

/-- Whoever assembles nothing from the first line gets nothing from the run (R56). -/
theorem runLines_of_assembly_error {line : Line} {s : State} (h : assemble s.lastResponse line = none) (rest : List Line) :
    runLines (line :: rest) s = none := by
  simp only [runLines, h]

/-- A line that assembles to a command runs it, and the rest goes on from where it leaves the machine (R56). -/
theorem runLines_of_assembles {line : Line} {s : State} {i : Instr} (h : assemble s.lastResponse line = some i)
    (rest : List Line) : runLines (line :: rest) s = runLines rest (s.complete (effect i s.regs)) := by
  simp only [runLines, h, exec_eq]

/-- The response `$` stands for after a cycle is the value the cycle answered, if it answered one. -/
theorem lastResponse_eq_some_iff (s : State) (w : Half) : s.lastResponse = some w ↔ s.reply = some (.value w) := by
  unfold State.lastResponse
  cases s.reply with
  | none => simp
  | some r => cases r <;> simp [Reply.response]

end Sys2Proof.Machine
end

