-- ==== Sys2Proof/Laws/PerInstr.lean ====
section
/-! SUPPORT. The word of every command matches its own row of the opcode map (R49), one lemma per constructor. -/

/-- Among the rows of R49 there is the instruction's own, and its word matches it. -/
def Sys2Proof.Laws.EncodesInItsRow.Statement (i : Sys2Proof.Instr) : Prop :=
  ∃ row ∈ Sys2Proof.opcodeMap, row.mnemonic = i.mnemonic ∧ row.admits (Sys2Proof.encodeCmd i) = true

namespace Sys2Proof.Laws

theorem EncodesInItsRow.geta : EncodesInItsRow.Statement .geta :=
  ⟨⟨"GETA", 0x100000#24, 0xFFFFFF#24⟩, by decide, rfl, by decide⟩

theorem EncodesInItsRow.getf : EncodesInItsRow.Statement .getf :=
  ⟨⟨"GETF", 0x110000#24, 0xFFFFFF#24⟩, by decide, rfl, by decide⟩

theorem EncodesInItsRow.getb : EncodesInItsRow.Statement .getb :=
  ⟨⟨"GETB", 0x120000#24, 0xFFFFFF#24⟩, by decide, rfl, by decide⟩

theorem EncodesInItsRow.getc : EncodesInItsRow.Statement .getc :=
  ⟨⟨"GETC", 0x130000#24, 0xFFFFFF#24⟩, by decide, rfl, by decide⟩

theorem EncodesInItsRow.getd : EncodesInItsRow.Statement .getd :=
  ⟨⟨"GETD", 0x140000#24, 0xFFFFFF#24⟩, by decide, rfl, by decide⟩

theorem EncodesInItsRow.gete : EncodesInItsRow.Statement .gete :=
  ⟨⟨"GETE", 0x150000#24, 0xFFFFFF#24⟩, by decide, rfl, by decide⟩

theorem EncodesInItsRow.geth : EncodesInItsRow.Statement .geth :=
  ⟨⟨"GETH", 0x160000#24, 0xFFFFFF#24⟩, by decide, rfl, by decide⟩

theorem EncodesInItsRow.getl : EncodesInItsRow.Statement .getl :=
  ⟨⟨"GETL", 0x170000#24, 0xFFFFFF#24⟩, by decide, rfl, by decide⟩

/-- The high 16 bits of a word whose low byte is an operand. -/
theorem mask_low_byte (k : BitVec 16) (v : Byte) : (k ++ v) &&& 0xFFFF00#24 = k ++ 0#8 := by
  ext i hi
  simp only [BitVec.getElem_and, BitVec.getElem_append]
  interval_cases i <;> simp

/-- The high 8 bits of a word whose low half is an operand. -/
theorem mask_low_half (k : BitVec 8) (v : Half) : (k ++ v) &&& 0xFF0000#24 = k ++ 0#16 := by
  ext i hi
  simp only [BitVec.getElem_and, BitVec.getElem_append]
  interval_cases i <;> simp

theorem EncodesInItsRow.seta (v : Byte) : EncodesInItsRow.Statement (.seta v) :=
  ⟨⟨"SETA", 0x200000#24, 0xFFFF00#24⟩, by decide, rfl, by
    exact decide_eq_true (mask_low_byte (0x2#4 ++ 0#1 ++ 0#3 ++ 0#8) v)⟩

theorem EncodesInItsRow.setf (v : Byte) : EncodesInItsRow.Statement (.setf v) :=
  ⟨⟨"SETF", 0x210000#24, 0xFFFF00#24⟩, by decide, rfl, by
    exact decide_eq_true (mask_low_byte (0x2#4 ++ 0#1 ++ 1#3 ++ 0#8) v)⟩

theorem EncodesInItsRow.setb (v : Byte) : EncodesInItsRow.Statement (.setb v) :=
  ⟨⟨"SETB", 0x220000#24, 0xFFFF00#24⟩, by decide, rfl, by
    exact decide_eq_true (mask_low_byte (0x2#4 ++ 0#1 ++ 2#3 ++ 0#8) v)⟩

theorem EncodesInItsRow.setc (v : Byte) : EncodesInItsRow.Statement (.setc v) :=
  ⟨⟨"SETC", 0x230000#24, 0xFFFF00#24⟩, by decide, rfl, by
    exact decide_eq_true (mask_low_byte (0x2#4 ++ 0#1 ++ 3#3 ++ 0#8) v)⟩

theorem EncodesInItsRow.setd (v : Byte) : EncodesInItsRow.Statement (.setd v) :=
  ⟨⟨"SETD", 0x240000#24, 0xFFFF00#24⟩, by decide, rfl, by
    exact decide_eq_true (mask_low_byte (0x2#4 ++ 0#1 ++ 4#3 ++ 0#8) v)⟩

theorem EncodesInItsRow.sete (v : Byte) : EncodesInItsRow.Statement (.sete v) :=
  ⟨⟨"SETE", 0x250000#24, 0xFFFF00#24⟩, by decide, rfl, by
    exact decide_eq_true (mask_low_byte (0x2#4 ++ 0#1 ++ 5#3 ++ 0#8) v)⟩

theorem EncodesInItsRow.seth (v : Byte) : EncodesInItsRow.Statement (.seth v) :=
  ⟨⟨"SETH", 0x260000#24, 0xFFFF00#24⟩, by decide, rfl, by
    exact decide_eq_true (mask_low_byte (0x2#4 ++ 0#1 ++ 6#3 ++ 0#8) v)⟩

theorem EncodesInItsRow.setl (v : Byte) : EncodesInItsRow.Statement (.setl v) :=
  ⟨⟨"SETL", 0x270000#24, 0xFFFF00#24⟩, by decide, rfl, by
    exact decide_eq_true (mask_low_byte (0x2#4 ++ 0#1 ++ 7#3 ++ 0#8) v)⟩

theorem EncodesInItsRow.getaf : EncodesInItsRow.Statement .getaf :=
  ⟨⟨"GETAF", 0x300000#24, 0xFFFFFF#24⟩, by decide, rfl, by decide⟩

theorem EncodesInItsRow.getbc : EncodesInItsRow.Statement .getbc :=
  ⟨⟨"GETBC", 0x310000#24, 0xFFFFFF#24⟩, by decide, rfl, by decide⟩

theorem EncodesInItsRow.getde : EncodesInItsRow.Statement .getde :=
  ⟨⟨"GETDE", 0x320000#24, 0xFFFFFF#24⟩, by decide, rfl, by decide⟩

theorem EncodesInItsRow.gethl : EncodesInItsRow.Statement .gethl :=
  ⟨⟨"GETHL", 0x330000#24, 0xFFFFFF#24⟩, by decide, rfl, by decide⟩

theorem EncodesInItsRow.setaf (v : Half) : EncodesInItsRow.Statement (.setaf v) :=
  ⟨⟨"SETAF", 0x400000#24, 0xFF0000#24⟩, by decide, rfl, by
    exact decide_eq_true (mask_low_half (0x4#4 ++ 0#2 ++ 0#2) v)⟩

theorem EncodesInItsRow.setbc (v : Half) : EncodesInItsRow.Statement (.setbc v) :=
  ⟨⟨"SETBC", 0x410000#24, 0xFF0000#24⟩, by decide, rfl, by
    exact decide_eq_true (mask_low_half (0x4#4 ++ 0#2 ++ 1#2) v)⟩

theorem EncodesInItsRow.setde (v : Half) : EncodesInItsRow.Statement (.setde v) :=
  ⟨⟨"SETDE", 0x420000#24, 0xFF0000#24⟩, by decide, rfl, by
    exact decide_eq_true (mask_low_half (0x4#4 ++ 0#2 ++ 2#2) v)⟩

theorem EncodesInItsRow.sethl (v : Half) : EncodesInItsRow.Statement (.sethl v) :=
  ⟨⟨"SETHL", 0x430000#24, 0xFF0000#24⟩, by decide, rfl, by
    exact decide_eq_true (mask_low_half (0x4#4 ++ 0#2 ++ 3#2) v)⟩

theorem EncodesInItsRow.encode (fl : Flags) : EncodesInItsRow.Statement (.encode fl) :=
  ⟨⟨"ENCODE", 0x500000#24, 0xFFFFF0#24⟩, by decide, rfl, by obtain ⟨z, s, hc, c⟩ := fl; revert z s hc c; decide⟩

theorem EncodesInItsRow.decode (b : Byte) : EncodesInItsRow.Statement (.decode b) :=
  ⟨⟨"DECODE", 0x510000#24, 0xFFFF00#24⟩, by decide, rfl, by
    exact decide_eq_true (mask_low_byte (0x5#4 ++ 0x1#4 ++ 0#8) b)⟩

end Sys2Proof.Laws
end

