-- ==== Sys2Proof/Tests/Slice0.lean ====
section
/-! SUPPORT. The model's own tests. Expected values come from spec/95_test_vectors.md (tables V1 to V8, programs P1 to P6),
from the opcode map of R49 and from the list of R54; the table or rule stands at each group. Then, for every statement with
hypotheses, a state and operands that meet them. -/

namespace Sys2Proof.Tests

open Sys2Proof.Machine Sys2Proof.Claims

/-- A machine with given registers and nothing driven. -/
def machine (rf : RegFile) : State := { regs := rf, pending := [], reply := none, illegalSeen := none }

/-- The start state of tables V1 and V3. -/
def readStart : RegFile := ⟨0x01, 0xB0, 0x00, 0x13, 0x80, 0x7F, 0xFF, 0x4D⟩

/-- The start state of tables V2 and V4. -/
def writeStart : RegFile := ⟨0x11, 0x22, 0x33, 0x44, 0x55, 0x66, 0x77, 0x88⟩

/-- The registers and the outcome after the step that presents a word. -/
def afterWord (w : CmdWord) (rf : RegFile) : Option (RegFile × Option Reply) :=
  match step { machine rf with pending := [presentWord w] } with
  | .next t => some (t.regs, t.reply)
  | .fault _ => none
  | .refused _ => none

/-! Decoding: every constructor's word, written out from R49 -/

theorem test_decode_geta : decodeCmd 0b000100000000000000000000#24 = .ok .geta := by decide
theorem test_decode_getf : decodeCmd 0b000100010000000000000000#24 = .ok .getf := by decide
theorem test_decode_getb : decodeCmd 0b000100100000000000000000#24 = .ok .getb := by decide
theorem test_decode_getc : decodeCmd 0b000100110000000000000000#24 = .ok .getc := by decide
theorem test_decode_getd : decodeCmd 0b000101000000000000000000#24 = .ok .getd := by decide
theorem test_decode_gete : decodeCmd 0b000101010000000000000000#24 = .ok .gete := by decide
theorem test_decode_geth : decodeCmd 0b000101100000000000000000#24 = .ok .geth := by decide
theorem test_decode_getl : decodeCmd 0b000101110000000000000000#24 = .ok .getl := by decide
theorem test_decode_seta : decodeCmd 0b001000000000000000000000#24 = .ok (.seta 0x00) := by decide
theorem test_decode_setf : decodeCmd 0b001000010000000011111111#24 = .ok (.setf 0xFF) := by decide
theorem test_decode_setb : decodeCmd 0b001000100000000000001111#24 = .ok (.setb 0x0F) := by decide
theorem test_decode_setc : decodeCmd 0b001000110000000000000001#24 = .ok (.setc 0x01) := by decide
theorem test_decode_setd : decodeCmd 0b001001000000000010100101#24 = .ok (.setd 0xA5) := by decide
theorem test_decode_sete : decodeCmd 0b001001010000000001011010#24 = .ok (.sete 0x5A) := by decide
theorem test_decode_seth : decodeCmd 0b001001100000000010000000#24 = .ok (.seth 0x80) := by decide
theorem test_decode_setl : decodeCmd 0b001001110000000010001000#24 = .ok (.setl 0x88) := by decide
theorem test_decode_getaf : decodeCmd 0b001100000000000000000000#24 = .ok .getaf := by decide
theorem test_decode_getbc : decodeCmd 0b001100010000000000000000#24 = .ok .getbc := by decide
theorem test_decode_getde : decodeCmd 0b001100100000000000000000#24 = .ok .getde := by decide
theorem test_decode_gethl : decodeCmd 0b001100110000000000000000#24 = .ok .gethl := by decide
theorem test_decode_setaf : decodeCmd 0b010000001010101111001101#24 = .ok (.setaf 0xABCD) := by decide
theorem test_decode_setbc : decodeCmd 0b010000010000000011111111#24 = .ok (.setbc 0x00FF) := by decide
theorem test_decode_setde : decodeCmd 0b010000101000000000000001#24 = .ok (.setde 0x8001) := by decide
theorem test_decode_sethl : decodeCmd 0b010000111100000011011110#24 = .ok (.sethl 0xC0DE) := by decide
theorem test_decode_encode : decodeCmd 0b010100000000000000001001#24 = .ok (.encode ⟨true, false, false, true⟩) := by decide
theorem test_decode_decode : decodeCmd 0b010100010000000010110000#24 = .ok (.decode 0xB0) := by decide
theorem test_decode_table_word : decodeTableWord 24 0x4100FF = some (.setbc 0x00FF) := by decide
theorem test_decode_table_word_reserved : decodeTableWord 24 0x000000 = none := by decide

/-! WellFormed refuses an ill-formed word for each item of R54, and admits the edges (V7) -/

theorem test_illformed_class_zero : reservedReason 0x0F0000#24 = some .reservedClass := by decide
theorem test_illformed_class_six : reservedReason 0x600000#24 = some .reservedClass := by decide
theorem test_illformed_register : reservedReason 0x2800AA#24 = some .reservedRegister := by decide
theorem test_illformed_pair : reservedReason 0x340000#24 = some .reservedPair := by decide
theorem test_illformed_codec : reservedReason 0x520000#24 = some .reservedCodec := by decide
theorem test_illformed_immediate_get : reservedReason 0x178000#24 = some .nonzeroImmediate := by decide
theorem test_illformed_immediate_byte : reservedReason 0x510100#24 = some .nonzeroImmediate := by decide
theorem test_illformed_immediate_flags : reservedReason 0x500010#24 = some .nonzeroImmediate := by decide
theorem test_wellformed_edges :
    ([0x170000#24, 0x2700FF#24, 0x330000#24, 0x43FFFF#24, 0x50000F#24, 0x5100FF#24].all wordWellFormed) = true := by decide
theorem test_illformed_literal8 : literal8WellFormed 255 = true ∧ literal8WellFormed 256 = false := by decide
theorem test_illformed_literal16 : literal16WellFormed 65535 = true ∧ literal16WellFormed 65536 = false := by decide
theorem test_illformed_flag_literal : flagLiteralWellFormed 1 = true ∧ flagLiteralWellFormed 2 = false := by decide

/-! One step per instruction: tables V1 to V6 -/

theorem test_geta : afterWord 0x100000#24 readStart = some (readStart, some (.value 0x0001)) := by decide
theorem test_getf : afterWord 0x110000#24 readStart = some (readStart, some (.value 0x00B0)) := by decide
theorem test_getb : afterWord 0x120000#24 readStart = some (readStart, some (.value 0x0000)) := by decide
theorem test_getc : afterWord 0x130000#24 readStart = some (readStart, some (.value 0x0013)) := by decide
theorem test_getd : afterWord 0x140000#24 readStart = some (readStart, some (.value 0x0080)) := by decide
theorem test_gete : afterWord 0x150000#24 readStart = some (readStart, some (.value 0x007F)) := by decide
theorem test_geth : afterWord 0x160000#24 readStart = some (readStart, some (.value 0x00FF)) := by decide
theorem test_getl : afterWord 0x170000#24 readStart = some (readStart, some (.value 0x004D)) := by decide
theorem test_seta :
    afterWord 0x2000FF#24 writeStart = some (({ writeStart with A := 0xFF } : RegFile), some .done) := by decide
theorem test_setf :
    afterWord 0x21000F#24 writeStart = some (({ writeStart with F := 0x0F } : RegFile), some .done) := by decide
theorem test_setb :
    afterWord 0x220080#24 writeStart = some (({ writeStart with B := 0x80 } : RegFile), some .done) := by decide
theorem test_setc :
    afterWord 0x230001#24 writeStart = some (({ writeStart with C := 0x01 } : RegFile), some .done) := by decide
theorem test_setd :
    afterWord 0x2400A5#24 writeStart = some (({ writeStart with D := 0xA5 } : RegFile), some .done) := by decide
theorem test_sete :
    afterWord 0x25005A#24 writeStart = some (({ writeStart with E := 0x5A } : RegFile), some .done) := by decide
theorem test_seth :
    afterWord 0x260000#24 writeStart = some (({ writeStart with H := 0x00 } : RegFile), some .done) := by decide
theorem test_setl :
    afterWord 0x270088#24 writeStart = some (({ writeStart with L := 0x88 } : RegFile), some .done) := by decide
theorem test_getaf : afterWord 0x300000#24 readStart = some (readStart, some (.value 0x01B0)) := by decide
theorem test_getbc : afterWord 0x310000#24 readStart = some (readStart, some (.value 0x0013)) := by decide
theorem test_getde : afterWord 0x320000#24 readStart = some (readStart, some (.value 0x807F)) := by decide
theorem test_gethl : afterWord 0x330000#24 readStart = some (readStart, some (.value 0xFF4D)) := by decide
theorem test_setaf :
    afterWord 0x40ABCD#24 writeStart = some (({ writeStart with A := 0xAB, F := 0xCD } : RegFile), some .done) := by decide
theorem test_setbc :
    afterWord 0x4100FF#24 writeStart = some (({ writeStart with B := 0x00, C := 0xFF } : RegFile), some .done) := by decide
theorem test_setde :
    afterWord 0x428001#24 writeStart = some (({ writeStart with D := 0x80, E := 0x01 } : RegFile), some .done) := by decide
theorem test_sethl :
    afterWord 0x43FFFF#24 writeStart = some (({ writeStart with H := 0xFF, L := 0xFF } : RegFile), some .done) := by decide
theorem test_encode : afterWord 0x500008#24 writeStart = some (writeStart, some (.value 0x0080)) := by decide
theorem test_encode_all : afterWord 0x50000F#24 writeStart = some (writeStart, some (.value 0x00F0)) := by decide
theorem test_decode : afterWord 0x5100CD#24 writeStart = some (writeStart, some (.value 0x000C)) := by decide
theorem test_decode_low_nibble : afterWord 0x51000F#24 writeStart = some (writeStart, some (.value 0x0000)) := by decide

/-! The port, the exception and reset: P4, R46, R105, V8 -/

theorem test_reserved_not_truncated :
    afterWord 0x2201FF#24 writeStart = some (writeStart, some (.illegal 0x2201FF#24)) := by decide
theorem test_illegal_outputs : portOut (some (.illegal 0x180000#24)) = ⟨false, 0x0000, true⟩ := by decide
theorem test_strict_step_faults :
    (match strictStep { machine writeStart with pending := [presentWord 0x180000#24] } with
     | .fault (.illegalCommand w) => w == 0x180000#24
     | _ => false) = true := by decide

/-- `INIT` of V8: "A=0x5A, F=0x0F, B=0, C=0, D=0, E=0, H=0xFF, L=0xFF". -/
def initV8 : Reg → Byte
  | .A => 0x5A
  | .F => 0x0F
  | .B | .C | .D | .E => 0
  | .H | .L => 0xFF

theorem test_reset_v8 :
    (match exec .getaf (State.resetWith initV8) with | .next t => t.reply | _ => none) = some (.value 0x5A0F) := by decide
theorem test_reset_wins :
    (match cycle initV8 ⟨true, true, 0x401234#24⟩ (machine writeStart) with
     | .next t => (t.regs, t.reply)
     | _ => (writeStart, none)) = (RegFile.ofInit initV8, some .done) := by decide
theorem test_first_step_after_reset_runs :
    (match step (State.reset.withFetchWord 24 0x100000) with | .next _ => true | _ => false) = true := by decide

/-! The master: examples of R57 to R59 and of R56 -/

theorem test_getflags :
    ((runLines getflagsLines (machine readStart)).map State.reply) = some (some (.value 0x000B)) := by decide
theorem test_setflags : ((runLines (setflagsLines 1 0 0 1) (machine writeStart)).map (·.regs.F)) = some 0x90 := by decide
theorem test_normf :
    ((runLines normfLines (machine { writeStart with F := 0xCD })).map (·.regs.F)) = some 0xC0 := by decide
theorem test_assemble : assemble none ⟨"SETHL", [.lit 0xC0DE]⟩ = some (.sethl 0xC0DE) := by decide
theorem test_assemble_unknown : assemble none ⟨"NOP", []⟩ = none := by decide

/-! Witnesses: for every statement with hypotheses, a state and operands that meet all of them -/

theorem witness_EncodeInvertsDecode : decodeCmd 0x20005A#24 = .ok (.seta 0x5A) := by decide
theorem witness_OpcodeMapAgreesWithDecoder :
    (⟨"SETA", 0x200000#24, 0xFFFF00#24⟩ : OpcodeRow) ∈ opcodeMap ∧
      (⟨"SETA", 0x200000#24, 0xFFFF00#24⟩ : OpcodeRow).admits 0x20005A#24 = true ∧
      decodeCmd 0x20005A#24 = .ok (.seta 0x5A) := by decide
theorem witness_ByteCommandsTouchOneRegister :
    (⟨.L, .getl, .setl, 0x170000#24, 0x270000#24⟩ : RegRow).reg ≠ .F ∧
      ∃ t, exec (.setl 0xFF) (machine writeStart) = .next t := ⟨by decide, _, rfl⟩
theorem witness_port_pending :
    ({ machine readStart with pending := [presentWord 0x100000#24, presentWord 0x2000FF#24] } : State).pending =
      presentWord 0x100000#24 :: [presentWord 0x2000FF#24] := rfl
theorem witness_EncodeAnswersTheWeightedSum :
    (9#4).toNat = 8 * bit true + 4 * bit false + 2 * bit false + bit true := by decide
theorem witness_ReadAfterWriteUntilNextWrite :
    ∀ i ∈ [Instr.setf 1, .geta, .setbc 0xFFFF, .decode 3], Reg.A ∉ writes i := by decide
theorem witness_ByteWritesOverwriteAndCommute : Reg.A ≠ Reg.F := by decide
theorem witness_PairCommandsTouchOnePair :
    Reg.C ≠ Reg.F ∧ ∃ t, exec (.setbc 0xFFFF) (machine writeStart) = .next t := ⟨by decide, _, rfl⟩
theorem witness_PairAndByteAccessesSeeEachOther :
    ∀ i ∈ [Instr.setbc 0xFFFF] ++ [Instr.getaf, .setl 0], Reg.A ∉ writes i ∧ Reg.F ∉ writes i := by decide
theorem witness_PairWritesAndOtherWritesCommute : Reg.A ≠ Reg.B ∧ Reg.H ≠ Reg.A ∧ Reg.H ≠ Reg.F := by decide
theorem witness_DecodeAfterEncodeIsIdentity :
    encodeFlags ⟨true, false, false, true⟩ = encodeFlags ⟨true, false, false, true⟩ := rfl
theorem witness_OnlySetfAndSetafChangeFlags :
    ∃ t, exec (.setf 0xFF) (machine writeStart) = .next t ∧ t.regs.flags ≠ (machine writeStart).regs.flags :=
  ⟨_, rfl, by decide⟩
theorem witness_CommandsChangeOnlyWhatTheyWrite :
    (Reg.F, 0xCD#8) ∈ stores (.setaf 0xABCD) ∧ Reg.B ∉ writes (.setaf 0xABCD) := by decide
theorem witness_OutcomeDependsOnRegistersAndCommandOnly :
    ∀ r, (machine readStart).regs.get r =
      ({ machine readStart with reply := some (.value 5), pending := [presentWord 0#24] } : State).regs.get r := fun _ => rfl
theorem witness_ReadsAreRepeatableAndWritesIdempotent :
    writes .getaf = [] ∧ (∀ j ∈ [Instr.geta, .encode ⟨true, true, true, true⟩], writes j = []) ∧ writes (.setl 0) ≠ [] := by
  decide
theorem witness_StepRunsTheDecodedCommand :
    ({ machine readStart with pending := [presentWord 0x43FFFF#24] } : State).pending = presentWord 0x43FFFF#24 :: [] ∧
      decodeCmd 0x43FFFF#24 = .ok (.sethl 0xFFFF) := by decide
theorem witness_PortRunsCommandsInIssueOrder :
    ({ machine readStart with pending := [presentWord 0x200012#24, presentWord 0x300000#24, ⟨true, false, 0#24⟩] } :
      State).pending =
      [Instr.seta 0x12, .getaf].map (fun i => presentWord (encodeCmd i)) ++ [⟨true, false, 0#24⟩] := by decide
theorem witness_PortOutputs_command : (presentWord 0x2000FF#24).cmdValid = true ∧
    decodeCmd (presentWord 0x2000FF#24).cmd = .ok (.seta 0xFF) ∧ writes (.seta 0xFF) ≠ [] := by decide
theorem witness_PortOutputs_read : decodeCmd (presentWord 0x330000#24).cmd = .ok .gethl ∧ writes .gethl = [] := by decide
theorem witness_PortOutputs_reserved :
    (presentWord 0x440000#24).cmdValid = true ∧ wordWellFormed (presentWord 0x440000#24).cmd = false := by decide
theorem witness_PortOutputs_idle : (⟨true, false, 0x200000#24⟩ : PortIn).cmdValid = false := rfl
theorem witness_IdleCycle_driven :
    ({ machine readStart with pending := [⟨false, false, 0x2000FF#24⟩] } : State).pending = ⟨false, false, 0x2000FF#24⟩ :: [] :=
  rfl
theorem witness_IdleCycle_nothing_driven : (machine readStart).pending = [] := rfl
theorem witness_RegistersChangeOnlyByResetOrSet :
    ∃ t, step { machine writeStart with pending := [presentWord 0x2000FF#24] } = .next t ∧
      t.regs.get .A ≠ writeStart.get .A := ⟨_, rfl, by decide⟩
theorem witness_ReservedWordRaisesIllegalCommand :
    ({ machine readStart with pending := [presentWord 0xFFFFFF#24] } : State).pending = presentWord 0xFFFFFF#24 :: [] ∧
      wordWellFormed 0xFFFFFF#24 = false := by decide
theorem witness_BlockGoesOnAfterReservedWords :
    (∀ w ∈ [0x180000#24, 0x2201FF#24, 0x000000#24], wordWellFormed w = false) ∧
      ({ machine readStart with pending := [presentWord 0x180000#24, presentWord 0x2201FF#24, presentWord 0x000000#24,
          presentWord 0x120000#24] } : State).pending =
        [0x180000#24, 0x2201FF#24, 0x000000#24].map presentWord ++ presentWord (encodeCmd .getb) :: [] :=
  ⟨by simp only [List.mem_cons, List.not_mem_nil, or_false]; rintro w (rfl | rfl | rfl) <;> decide, rfl⟩
theorem witness_StrictStep_faults :
    (presentWord 0x60FFFF#24).cmdValid = true ∧ wordWellFormed (presentWord 0x60FFFF#24).cmd = false := by decide
theorem witness_StrictStep_runs (inp : PortIn) (rest : List PortIn)
    (h : ({ machine readStart with pending := [presentWord 0x170000#24] } : State).pending = inp :: rest) :
    inp.cmdValid = true → wordWellFormed inp.cmd = true := by
  cases h
  decide

/-- A machine whose mark is set and whose last outcome was `illegal`. -/
def marked : State := { machine readStart with reply := some (.illegal 0x180000#24), illegalSeen := some 0x180000#24 }

theorem witness_MarkSound : MarkSound marked ∧ marked.illegalSeen ≠ none :=
  ⟨⟨fun w h => by cases h; decide, fun w h => by cases h; decide⟩, by decide⟩
theorem witness_MarkSound_safe : MarkSound (machine readStart) ∧ Safe (machine readStart) ∧
    ∀ inp rest, (machine readStart).pending = inp :: rest → inp.cmdValid = true → wordWellFormed inp.cmd = true :=
  ⟨⟨fun _ h => (nomatch h), fun _ h => (nomatch h)⟩, rfl, fun _ _ h => (nomatch h)⟩

/-- A master that keeps F[3:0] clear: `SETF 0x90`, then `SETAF 0x12F0`. -/
def disciplined : State :=
  { machine { readStart with F := 0xB0 } with pending := [presentWord 0x210090#24, presentWord 0x4012F0#24] }

theorem witness_NibbleDiscipline : NibbleDiscipline disciplined := by
  refine ⟨by unfold NibbleClear; decide, ?_⟩
  have h1 : decodeCmd 0x210090#24 = .ok (.setf 0x90) := by decide
  have h2 : decodeCmd 0x4012F0#24 = .ok (.setaf 0x12F0) := by decide
  intro inp hi
  simp only [disciplined, List.mem_cons, List.not_mem_nil, or_false] at hi
  rcases hi with rfl | rfl
  · refine ⟨rfl, fun _ => ⟨fun v hv => ⟨⟨true, false, false, true⟩, ?_⟩, fun v hv => ?_⟩⟩
    · rw [show (presentWord 0x210090#24).cmd = 0x210090#24 from rfl, h1] at hv
      cases hv; decide
    · rw [show (presentWord 0x210090#24).cmd = 0x210090#24 from rfl, h1] at hv
      cases hv
  · refine ⟨rfl, fun _ => ⟨fun v hv => ?_, fun v hv => ⟨0x12FF, ?_⟩⟩⟩
    · rw [show (presentWord 0x4012F0#24).cmd = 0x4012F0#24 from rfl, h2] at hv
      cases hv
    · rw [show (presentWord 0x4012F0#24).cmd = 0x4012F0#24 from rfl, h2] at hv
      cases hv; decide
theorem witness_FourPairWritesMakeTheStateKnown :
    [Instr.sethl 4, .setde 3, .setbc 2, .setaf 1].Perm [.setaf 1, .setbc 2, .setde 3, .sethl 4] :=
  List.reverse_perm [Instr.setaf 1, .setbc 2, .setde 3, .sethl 4]
/-- A reset cycle that also presents `SETAF 0x1234`, with a read to come after it. -/
theorem witness_ResetWinsOverACommand_step :
    ({ machine writeStart with pending := [⟨true, true, 0x401234#24⟩, presentWord 0x100000#24] } : State).pending =
      ⟨true, true, 0x401234#24⟩ :: [presentWord 0x100000#24] := rfl
theorem witness_AssemblerChecksLiterals_rows :
    ("DECODE", Instr.decode) ∈ byteLines ∧ ("SETAF", Instr.setaf) ∈ halfLines := ⟨by simp [byteLines], by simp [halfLines]⟩
/-- `GETF` with F = 0xB0, then `DECODE $`: R57's example. -/
theorem witness_AssemblerCarriesResponses_answer : Answers .getf (machine readStart) 0x00B0#16 ∧
    assemble (some 0x00B0#16) ⟨"DECODE", [.dollar]⟩ = some (.decode 0xB0#8) :=
  ⟨⟨_, rfl, by decide, fun _ => rfl, rfl, rfl⟩, by decide⟩
theorem witness_AssemblerCarriesResponses_none : (machine readStart).reply = none ∧ writes (.seta 0xFF) ≠ [] := by decide
theorem witness_AssemblerChecksLiterals : 255 < 256 ∧ 65535 < 65536 ∧ (1 < 2 ∨ 1 < 0 ∨ 1 < 0 ∨ 1 < 0) := by decide

end Sys2Proof.Tests
end

section
/-! The rules the statements about the state rest on: the flags view and the codec as bits, the register places of a pair,
one step of the machine, and what every command does to the eight registers. -/

namespace Sys2Proof.Machine

/-- The mask-and-compare form of R92 reads one bit. -/
theorem bitSet_eq_getLsbD (b : Byte) (n : Nat) : bitSet b n = b.getLsbD n := by
  have hmask : (b >>> n) &&& 1#8 = (BitVec.ofBool (b.getLsbD n)).setWidth 8 := by
    simp [BitVec.and_one_eq_setWidth_ofBool_getLsbD]
  rw [bitSet, hmask]
  cases b.getLsbD n <;> rfl

theorem decodeFlags_eq_bits (b : Byte) :
    decodeFlags b = ⟨b.getLsbD 7, b.getLsbD 6, b.getLsbD 5, b.getLsbD 4⟩ := by
  simp only [decodeFlags, bitSet_eq_getLsbD]

theorem RegFile.flags_eq_bits (rf : RegFile) :
    rf.flags = ⟨rf.F.getLsbD 7, rf.F.getLsbD 6, rf.F.getLsbD 5, rf.F.getLsbD 4⟩ :=
  decodeFlags_eq_bits rf.F

/-- The byte of R91 is the wire form of R52 with four zero bits below it. -/
theorem encodeFlags_eq_pack_append (fl : Flags) : encodeFlags fl = fl.pack ++ 0#4 := by
  obtain ⟨z, s, hc, c⟩ := fl
  revert z s hc c
  decide

theorem lowNibble_encodeFlags (fl : Flags) : (encodeFlags fl).extractLsb' 0 4 = 0#4 := by
  rw [encodeFlags_eq_pack_append, BitVec.extractLsb'_append_eq_right]

theorem getLsbD_encodeFlags_of_lt (fl : Flags) {n : Nat} (h : n < 4) : (encodeFlags fl).getLsbD n = false := by
  have hbit := congrArg (BitVec.getLsbD · n) (lowNibble_encodeFlags fl)
  simpa [BitVec.getLsbD_extractLsb', h] using hbit

/-- R93 on the functions: encoding loses no flag. -/
theorem decodeFlags_encodeFlags (fl : Flags) : decodeFlags (encodeFlags fl) = fl := by
  obtain ⟨z, s, hc, c⟩ := fl
  revert z s hc c
  decide

/-- R44: the high register of pair `p` has number `2p`. -/
theorem ofNumber_append_zero (p : Pair) : Reg.ofNumber (p.number ++ 0#1) = highReg p := by cases p <;> rfl

/-- R44: the low register of pair `p` has number `2p+1`. -/
theorem ofNumber_append_one (p : Pair) : Reg.ofNumber (p.number ++ 1#1) = lowReg p := by cases p <;> rfl

/-- The flags follow the register F and nothing else (R19). -/
theorem RegFile.flags_eq_of_get_F {a b : RegFile} (h : a.get .F = b.get .F) : a.flags = b.flags :=
  congrArg decodeFlags h

theorem effect_readOf (r : Reg) (rf : RegFile) : effect (Instr.readOf r) rf = readReg r rf := by cases r <;> rfl

theorem cycle_idle (INIT : Reg → Byte) (w : CmdWord) (s : State) : cycle INIT ⟨false, false, w⟩ s = .next s.idle := rfl

theorem step_of_pending_nil {s : State} (h : s.pending = []) : step s = .next s.idle := by
  simp only [step, stepWith, h]

theorem step_of_pending_cons {s : State} {inp : PortIn} {rest : List PortIn} (h : s.pending = inp :: rest) :
    step s = cycle Config.INIT inp { s with pending := rest } := by
  simp only [step, stepWith, h]

end Sys2Proof.Machine

namespace Sys2Proof.Claims

open Sys2Proof.Machine

/-- The field form and the mask form of the low half agree (R80). -/
theorem lowByte_eq_maskLow (v : Half) : lowByte v = maskLow v := by
  have hmask : v.toNat % 256 &&& 255 = v.toNat % 256 := by
    rw [Nat.and_two_pow_sub_one_eq_mod _ 8, Nat.mod_mod]
  apply BitVec.eq_of_toNat_eq
  simp [maskLow, toNat_lowByte, hmask]

/-- The field form and the shift form of the high half agree (R80): either is the low half of the value shifted down. -/
theorem highByte_eq_shiftHigh (v : Half) : highByte v = shiftHigh v := by
  have hlow : highByte v = lowByte (v >>> 8) := by
    apply BitVec.eq_of_toNat_eq
    have := v.isLt
    rw [toNat_highByte, toNat_lowByte, BitVec.toNat_ushiftRight, Nat.shiftRight_eq_div_pow]
    omega
  exact hlow.trans (lowByte_eq_maskLow (v >>> 8))

/-- A command whose effect keeps the registers and returns `w` answers `w`. -/
theorem answers_of_effect {i : Instr} {s : State} {w : Half} (h : effect i s.regs = (s.regs, .value w)) : Answers i s w :=
  ⟨_, exec_eq i s, by simp [h], by simp [h], rfl, rfl⟩

theorem read_eq_readOf : ∀ row ∈ regRows, row.read = Instr.readOf row.reg := by decide

/-- A read of a register answers its value, zero-extended (R60). -/
theorem answers_read {row : RegRow} (hrow : row ∈ regRows) (s : State) :
    Answers row.read s ((s.regs.get row.reg).setWidth 16) :=
  answers_of_effect (by rw [read_eq_readOf row hrow, effect_readOf]; rfl)

/-- A write of one register, in terms of what is stored. -/
theorem get_set_eq_lookup (rf : RegFile) (q r : Reg) (v : Byte) :
    (rf.set q v).get r = (List.lookup r [(q, v)]).getD (rf.get r) := by
  cases q <;> cases r <;> rfl

/-- A write of a pair, in terms of what is stored. -/
theorem get_setPair_eq_lookup (rf : RegFile) (p : Pair) (r : Reg) (v : Half) :
    (rf.setPair p v).get r =
      (List.lookup r [(highReg p, shiftHigh v), (lowReg p, maskLow v)]).getD (rf.get r) := by
  rw [← highByte_eq_shiftHigh, ← lowByte_eq_maskLow]
  cases p <;> cases r <;> rfl

/-- All a command does to the registers: `r` takes the value `stores` lists for it, or keeps its own (R13). -/
theorem get_effect (i : Instr) (rf : RegFile) (r : Reg) :
    (effect i rf).1.get r = ((stores i).lookup r).getD (rf.get r) := by
  cases i with
  | seta v | setf v | setb v | setc v | setd v | sete v | seth v | setl v => exact get_set_eq_lookup rf _ r v
  | setaf v => exact get_setPair_eq_lookup rf .AF r v
  | setbc v => exact get_setPair_eq_lookup rf .BC r v
  | setde v => exact get_setPair_eq_lookup rf .DE r v
  | sethl v => exact get_setPair_eq_lookup rf .HL r v
  | _ => rfl

/-- No command writes one register twice. -/
theorem writes_nodup (i : Instr) : (writes i).Nodup := by
  cases i <;> simp [writes, stores]

/-- Where no key stands twice, looking a key up finds its entry. -/
theorem lookup_eq_some_of_mem {α β : Type} [DecidableEq α] {l : List (α × β)} (hl : (l.map Prod.fst).Nodup)
    {k : α} {v : β} (h : (k, v) ∈ l) : l.lookup k = some v := by
  obtain ⟨before, after, rfl⟩ := List.append_of_mem h
  refine List.lookup_eq_some_iff.2 ⟨before, after, rfl, fun p hp => ?_⟩
  have hne : p.1 ≠ k := by
    rw [List.map_append, List.nodup_append] at hl
    obtain ⟨-, -, hdisjoint⟩ := hl
    exact hdisjoint _ (List.mem_map_of_mem hp) _ (by simp)
  simpa using hne.symm

/-- A register the command writes holds what the command stores (R13). -/
theorem get_effect_of_mem_stores {i : Instr} {r : Reg} {v : Byte} (h : (r, v) ∈ stores i) (rf : RegFile) :
    (effect i rf).1.get r = v := by
  rw [get_effect, lookup_eq_some_of_mem (writes_nodup i) h, Option.getD_some]

/-- A register the command does not write keeps its value (R13). -/
theorem get_effect_of_notMem_writes {i : Instr} {r : Reg} (h : r ∉ writes i) (rf : RegFile) :
    (effect i rf).1.get r = rf.get r := by
  have hnone : (stores i).lookup r = none := by
    refine List.lookup_eq_none_iff.2 fun p hp => bne_iff_ne.2 ?_
    rintro rfl
    exact h (List.mem_map_of_mem hp)
  rw [get_effect, hnone, Option.getD_none]

/-- F is written by SETF and SETAF alone (R20). -/
theorem F_mem_writes_iff (i : Instr) : .F ∈ writes i ↔ (∃ v, i = .setf v) ∨ (∃ v, i = .setaf v) := by
  cases i <;> simp [writes, stores]

end Sys2Proof.Claims
end

section
/-! The statements about the state (spec/10_state.md). -/

namespace Sys2Proof.Claims

open Sys2Proof.Machine

/-- Settles O27: a write of F or of AF stores every bit, by `exec_eq`, and what is read back is what was stored. -/
theorem fStoresAllEightBits : Obligations.FStoresAllEightBits := by
  refine ⟨fun s v => ?_, fun s v => ?_, fun fl s => ?_⟩
  · exact ⟨_, exec_eq (.setf v) s, rfl, answers_of_effect rfl⟩
  · have hA : highByte v = shiftHigh v := highByte_eq_shiftHigh v
    have hF : lowByte v = maskLow v := lowByte_eq_maskLow v
    refine ⟨_, exec_eq (.setaf v) s, hA, hF, answers_of_effect ?_, answers_of_effect ?_⟩
    · exact congrArg (fun w => (_, Reply.value w)) (joinBytes_halves v)
    · rw [← hF]; rfl
  · exact ⟨_, exec_eq (.setf (encodeFlags fl)) s, lowNibble_encodeFlags fl⟩

/-- Settles O28: a command that does not write F keeps it, and the flags follow F alone. -/
theorem onlySetfAndSetafChangeFlags : Obligations.OnlySetfAndSetafChangeFlags := by
  intro i s t hexec hflags
  rw [exec_eq] at hexec
  obtain rfl := Host.Outcome.next.inj hexec
  refine (F_mem_writes_iff i).1 (Decidable.by_contra fun hF => hflags ?_)
  exact RegFile.flags_eq_of_get_F (get_effect_of_notMem_writes hF s.regs)

/-- Settles O29, from what `effect` does to a register that is stored and to one that is not written. -/
theorem commandsChangeOnlyWhatTheyWrite : Obligations.CommandsChangeOnlyWhatTheyWrite := fun i s =>
  ⟨_, exec_eq i s, ⟨rfl, rfl⟩, fun _ _ hmem => get_effect_of_mem_stores hmem s.regs,
    fun _ hmem => get_effect_of_notMem_writes hmem s.regs⟩

/-- Settles O31: `effect` takes the command and the register file, and eight equal registers make one register file. -/
theorem outcomeDependsOnRegistersAndCommandOnly : Obligations.OutcomeDependsOnRegistersAndCommandOnly := by
  refine ⟨fun i s s' hregs => ?_, fun INIT w s => ⟨_, cycle_idle INIT w s, fun _ => rfl⟩⟩
  have hrf : s.regs = s'.regs := RegFile.ext_get hregs
  exact ⟨_, _, exec_eq i s, exec_eq i s', by simp [hrf], by simp [hrf]⟩

/-- Settles O7: the numberings are one to one, and a pair's two registers stand at the two numbers that begin with its own. -/
theorem pairIsRegistersTwoPAndTwoPPlusOne : Obligations.PairIsRegistersTwoPAndTwoPPlusOne := by
  refine ⟨rfl, rfl, Reg.number_ofNumber, Pair.number_ofNumber, fun p => ?_, fun rf p => ?_⟩
  · cases p <;> decide
  · rw [ofNumber_append_zero, ofNumber_append_one]; rfl

/-- Settles O26: both views are the four bits, and ENCODE's byte decodes to its record above a zero nibble. -/
theorem flagsStandAtFixedBits : Obligations.FlagsStandAtFixedBits := by
  refine ⟨RegFile.flags_eq_bits, decodeFlags_eq_bits, fun fl => ?_, fun rf fl => ⟨encodeFlags fl, decodeFlags_encodeFlags fl⟩⟩
  obtain ⟨hz, hs, hhc, hc⟩ := Flags.mk.inj ((decodeFlags_eq_bits _).symm.trans (decodeFlags_encodeFlags fl))
  exact ⟨hz, hs, hhc, hc, fun _ hn => getLsbD_encodeFlags_of_lt fl hn⟩

/-- Settles O38: the cycle driven without a command and the cycle not driven are both `State.idle`. -/
theorem idleCycleHoldsTheRegisters : Obligations.IdleCycleHoldsTheRegisters := by
  refine ⟨fun s w rest hpending => ?_, fun s hpending => ?_⟩
  · exact ⟨_, (step_of_pending_cons hpending).trans (cycle_idle _ w _), fun _ => rfl, rfl, rfl, rfl⟩
  · exact ⟨_, step_of_pending_nil hpending, fun _ => rfl, rfl, hpending, rfl⟩

/-- Settles O46: the reset register file is `INIT` at every register, and the views and the reads show what it holds. -/
theorem resetStateHoldsINIT : Obligations.ResetStateHoldsINIT := by
  refine ⟨fun INIT => ⟨RegFile.get_ofInit INIT, RegFile.flags_eq_bits _, fun row hrow => ?_, rfl, rfl, rfl⟩, rfl,
    RegFile.get_ofInit Config.INIT⟩
  simpa [RegFile.get_ofInit] using answers_read hrow (State.resetWith INIT)

end Sys2Proof.Claims
end

section
/-! The rules the statements about runs of commands rest on: the decoder on the word of each command, one cycle that
presents a command or drives reset, where a run leaves the eight registers, and what a pair row's commands do. -/

namespace Sys2Proof

theorem wordG8_eq_fields (r : Reg) : wordG8 r = 0x1#4 ++ (0#1 ++ r.number) ++ 0#16 := by cases r <;> rfl

theorem wordS8_eq_fields (r : Reg) (v : Byte) : wordS8 r v = 0x2#4 ++ (0#1 ++ r.number) ++ (0#8 ++ v) := by
  cases r <;> exact BitVec.append_assoc

theorem wordG16_eq_fields (p : Pair) : wordG16 p = 0x3#4 ++ (0#2 ++ p.number) ++ 0#16 := by cases p <;> rfl

theorem wordS16_eq_fields (p : Pair) (v : Half) : wordS16 p v = 0x4#4 ++ (0#2 ++ p.number) ++ v := by cases p <;> rfl

theorem wordENC_eq_fields (fl : Flags) : wordENC fl = 0x5#4 ++ 0x0#4 ++ (0#12 ++ fl.pack) := BitVec.append_assoc

theorem wordDEC_eq_fields (b : Byte) : wordDEC b = 0x5#4 ++ 0x1#4 ++ (0#8 ++ b) := BitVec.append_assoc

/-- No register number reaches bit 3 of `sel` (R31). -/
theorem regSel_bits (r : Reg) :
    (0#1 ++ r.number : BitVec 4)[3] = false ∧ Reg.ofNumber ((0#1 ++ r.number : BitVec 4).extractLsb' 0 3) = r := by
  cases r <;> decide

/-- No pair number reaches bits 3 and 2 of `sel` (R31). -/
theorem pairSel_bits (p : Pair) :
    (0#2 ++ p.number : BitVec 4).extractLsb' 2 2 = 0#2 ∧ Pair.ofNumber ((0#2 ++ p.number : BitVec 4).extractLsb' 0 2) = p := by
  cases p <;> decide

/-- An 8-bit operand fills `imm[7:0]` and leaves `imm[15:8]` zero (R48). -/
theorem byteImm_bits (v : Byte) :
    (0#8 ++ v : Half).extractLsb' 8 8 = 0#8 ∧ (0#8 ++ v : Half).extractLsb' 0 8 = v :=
  ⟨BitVec.extractLsb'_append_eq_left, BitVec.extractLsb'_append_eq_right⟩

/-- A flags record fills `imm[3:0]` and leaves `imm[15:4]` zero (R48). -/
theorem flagsImm_bits (fl : Flags) :
    (0#12 ++ fl.pack : Half).extractLsb' 4 12 = 0#12 ∧ (0#12 ++ fl.pack : Half).extractLsb' 0 4 = fl.pack :=
  ⟨BitVec.extractLsb'_append_eq_left, BitVec.extractLsb'_append_eq_right⟩

theorem decodeCmd_wordG8 (r : Reg) : decodeCmd (wordG8 r) = .ok (Instr.readOf r) := by cases r <;> rfl

theorem decodeCmd_wordG16 (p : Pair) : decodeCmd (wordG16 p) = .ok (Instr.readPairOf p) := by cases p <;> rfl

theorem decodeCmd_wordS8 (r : Reg) (v : Byte) : decodeCmd (wordS8 r v) = .ok (Instr.writeOf r v) := by
  obtain ⟨hcls, hsel, himm⟩ := fields_of_word 0x2#4 (0#1 ++ r.number) (0#8 ++ v)
  rw [wordS8_eq_fields]
  simp only [decodeCmd, hcls, hsel, himm]
  simp [regSel_bits, byteImm_bits]

theorem decodeCmd_wordS16 (p : Pair) (v : Half) : decodeCmd (wordS16 p v) = .ok (Instr.writePairOf p v) := by
  obtain ⟨hcls, hsel, himm⟩ := fields_of_word 0x4#4 (0#2 ++ p.number) v
  rw [wordS16_eq_fields]
  simp only [decodeCmd, hcls, hsel, himm]
  simp [pairSel_bits]

theorem decodeCmd_wordENC (fl : Flags) : decodeCmd (wordENC fl) = .ok (.encode fl) := by
  obtain ⟨hcls, hsel, himm⟩ := fields_of_word 0x5#4 0x0#4 (0#12 ++ fl.pack)
  rw [wordENC_eq_fields]
  simp only [decodeCmd, hcls, hsel, himm]
  simp [flagsImm_bits, Flags.unpack_pack]

theorem decodeCmd_wordDEC (b : Byte) : decodeCmd (wordDEC b) = .ok (.decode b) := by
  obtain ⟨hcls, hsel, himm⟩ := fields_of_word 0x5#4 0x1#4 (0#8 ++ b)
  rw [wordDEC_eq_fields]
  simp only [decodeCmd, hcls, hsel, himm]
  simp [byteImm_bits]

/-- The decoder reads every command back from its word (R55): one lemma per format, at the register or pair named. -/
theorem decodeCmd_encodeCmd (i : Instr) : decodeCmd (encodeCmd i) = .ok i := by
  cases i with
  | geta | getf | getb | getc | getd | gete | geth | getl => exact decodeCmd_wordG8 _
  | seta v | setf v | setb v | setc v | setd v | sete v | seth v | setl v => exact decodeCmd_wordS8 _ v
  | getaf | getbc | getde | gethl => exact decodeCmd_wordG16 _
  | setaf v | setbc v | setde v | sethl v => exact decodeCmd_wordS16 _ v
  | encode fl => exact decodeCmd_wordENC fl
  | decode b => exact decodeCmd_wordDEC b

end Sys2Proof

namespace Sys2Proof.Machine

/-- A step that has a command's word to serve consumes the word and does what the command does (R45). -/
theorem step_of_pending_command {s : State} {i : Instr} {rest : List PortIn}
    (h : s.pending = presentWord (encodeCmd i) :: rest) :
    step s = .next (State.complete { s with pending := rest } (effect i s.regs)) := by
  have hissue (t : State) : issueWord (encodeCmd i) t = exec i t := by simp only [issueWord, decodeCmd_encodeCmd]
  have hcycle (t : State) : cycle Config.INIT (presentWord (encodeCmd i)) t = .next (t.complete (effect i t.regs)) := by
    simp [cycle, serve, presentWord, closeCycle, hissue, exec_eq]
  rw [step_of_pending_cons h, hcycle]

/-- A cycle that drives reset leaves `INIT` in the registers, whatever else it presents (R105, R120). -/
theorem cycle_reset_regs (INIT : Reg → Byte) (valid : Bool) (w : CmdWord) (s : State) :
    ∃ t, cycle INIT ⟨true, valid, w⟩ s = .next t ∧ t.regs = RegFile.ofInit INIT := by
  cases valid with
  | false => exact ⟨_, rfl, rfl⟩
  | true =>
    obtain ⟨i, -, hi⟩ | ⟨r, -, hr⟩ := issueWord_cases w s
    · exact ⟨_, congrArg (closeCycle INIT true) hi, rfl⟩
    · exact ⟨_, congrArg (closeCycle INIT true) hr, rfl⟩

end Sys2Proof.Machine

namespace Sys2Proof.Claims

open Sys2Proof.Machine

theorem runCmds_cons (i : Instr) (cs : List Instr) (s : State) :
    runCmds (i :: cs) s = runCmds cs (s.complete (effect i s.regs)) := by
  simp only [runCmds, exec_eq]

/-- What came before the first command is overwritten by it or stays the start. -/
theorem mostRecent_cons (r : Reg) (i : Instr) (cs : List Instr) (start : Byte) :
    mostRecent r (i :: cs) start = mostRecent r cs (((stores i).lookup r).getD start) := by
  simp [mostRecent, List.findSome?_append, Option.getD_or]

theorem mostRecent_append (r : Reg) (cs ds : List Instr) (start : Byte) :
    mostRecent r (cs ++ ds) start = mostRecent r ds (mostRecent r cs start) := by
  simp [mostRecent, List.findSome?_append, Option.getD_or]

/-- A command that does not write `r` leaves the value most recent so far. -/
theorem getD_lookup_stores_of_notMem_writes {i : Instr} {r : Reg} (h : r ∉ writes i) (start : Byte) :
    ((stores i).lookup r).getD start = start := by
  simpa [get_effect, RegFile.get_ofInit] using get_effect_of_notMem_writes h (RegFile.ofInit fun _ => start)

/-- Where no command covers `r`, the start is still there. -/
theorem mostRecent_of_notMem_writes {r : Reg} {cs : List Instr} (h : ∀ i ∈ cs, r ∉ writes i) (start : Byte) :
    mostRecent r cs start = start := by
  induction cs with
  | nil => rfl
  | cons i cs ih =>
    obtain ⟨hi, hcs⟩ := List.forall_mem_cons.1 h
    rw [mostRecent_cons, getD_lookup_stores_of_notMem_writes hi, ih hcs]

/-- A write that no later command covers is the most recent one. -/
theorem mostRecent_of_last_write {r : Reg} {v : Byte} {i : Instr} {post : List Instr} (hi : (r, v) ∈ stores i)
    (hpost : ∀ j ∈ post, r ∉ writes j) (pre : List Instr) (start : Byte) :
    mostRecent r (pre ++ i :: post) start = v := by
  rw [mostRecent_append, mostRecent_cons, lookup_eq_some_of_mem (writes_nodup i) hi, Option.getD_some,
    mostRecent_of_notMem_writes hpost]

/-- Every run of commands completes, and leaves in each register the most recent write that covered it (R39). -/
theorem runCmds_regs (cs : List Instr) (s : State) :
    ∃ t, runCmds cs s = some t ∧ ∀ r, t.regs.get r = mostRecent r cs (s.regs.get r) := by
  induction cs generalizing s with
  | nil => exact ⟨s, rfl, fun _ => rfl⟩
  | cons i cs ih =>
    obtain ⟨t, hrun, hregs⟩ := ih (s.complete (effect i s.regs))
    refine ⟨t, (runCmds_cons i cs s).trans hrun, fun r => ?_⟩
    rw [hregs, State.complete_regs, get_effect, mostRecent_cons]

/-- Writes of two different registers, with nothing between or after that covers either, are both there at the end. -/
theorem runCmds_two_writes {i j : Instr} {q r : Reg} {a b : Byte} {mid post : List Instr} (hi : stores i = [(q, a)])
    (hj : stores j = [(r, b)]) (hne : q ≠ r) (hframe : ∀ k ∈ mid ++ post, q ∉ writes k ∧ r ∉ writes k) (s : State) :
    ∃ t, runCmds (i :: mid ++ j :: post) s = some t ∧ t.regs.get q = a ∧ t.regs.get r = b := by
  obtain ⟨t, hrun, hregs⟩ := runCmds_regs (i :: mid ++ j :: post) s
  have hq : ∀ k ∈ mid ++ j :: post, q ∉ writes k := by
    simp only [List.mem_append, List.mem_cons]
    rintro k (hk | rfl | hk)
    · exact (hframe k (List.mem_append_left post hk)).1
    · simpa [writes, hj] using hne
    · exact (hframe k (List.mem_append_right mid hk)).1
  have hr : ∀ k ∈ post, r ∉ writes k := fun k hk => (hframe k (List.mem_append_right mid hk)).2
  refine ⟨t, hrun, (hregs q).trans ?_, (hregs r).trans ?_⟩
  · exact mostRecent_of_last_write (by simp [hi]) hq [] _
  · exact mostRecent_of_last_write (by simp [hj]) hr (i :: mid) _

/-- The field form and the shift form of a joined pair agree (R80). -/
theorem joinBytes_eq_shiftJoin (h l : Byte) : joinBytes h l = shiftJoin h l := by
  rw [joinBytes, BitVec.append_def, BitVec.shiftLeftZeroExtend_eq, BitVec.setWidth'_eq]
  rfl

/-- `Instr.readOf` answers the register it names, zero-extended (R60). -/
theorem answers_readOf (r : Reg) (s : State) : Answers (Instr.readOf r) s ((s.regs.get r).setWidth 16) :=
  answers_of_effect (by rw [effect_readOf]; rfl)

/-- The commands of a pair row, by the registers they read and what they store (R14, R79 to R88). -/
theorem pairRow_reads : ∀ row ∈ pairRows, row.x ≠ row.y ∧ row.readX = Instr.readOf row.x ∧ row.readY = Instr.readOf row.y := by
  decide

theorem pairRow_stores {row : PairRow} (hrow : row ∈ pairRows) :
    (∀ h, stores (row.writeX h) = [(row.x, h)]) ∧ (∀ l, stores (row.writeY l) = [(row.y, l)]) ∧
      (∀ v, stores (row.write v) = [(row.x, shiftHigh v), (row.y, maskLow v)]) := by
  simp only [pairRows, List.mem_cons, List.not_mem_nil, or_false] at hrow
  obtain rfl | rfl | rfl | rfl := hrow <;> exact ⟨fun _ => rfl, fun _ => rfl, fun _ => rfl⟩

/-- A write of one register stores it and leaves the others as they were (R60). -/
theorem exec_of_stores_singleton {i : Instr} {q : Reg} {v : Byte} (h : stores i = [(q, v)]) (s : State) :
    ∃ t, exec i s = .next t ∧ t.regs.get q = v ∧ ∀ r, r ≠ q → t.regs.get r = s.regs.get r :=
  ⟨_, exec_eq i s, get_effect_of_mem_stores (by simp [h]) s.regs, fun r hr =>
    get_effect_of_notMem_writes (by simpa [writes, h] using hr) s.regs⟩

/-- A write of a pair stores the two halves of its operand (R80). -/
theorem exec_writePair {row : PairRow} (hrow : row ∈ pairRows) (v : Half) (s : State) :
    ∃ t, exec (row.write v) s = .next t ∧ t.regs.get row.x = shiftHigh v ∧ t.regs.get row.y = maskLow v := by
  obtain ⟨-, -, hXY⟩ := pairRow_stores hrow
  exact ⟨_, exec_eq _ s, get_effect_of_mem_stores (by simp [hXY]) s.regs, get_effect_of_mem_stores (by simp [hXY]) s.regs⟩

/-- A read of a pair answers its two registers, joined (R80). -/
theorem answers_readPair {row : PairRow} (hrow : row ∈ pairRows) (s : State) :
    Answers row.read s (shiftJoin (s.regs.get row.x) (s.regs.get row.y)) := by
  rw [← joinBytes_eq_shiftJoin]
  simp only [pairRows, List.mem_cons, List.not_mem_nil, or_false] at hrow
  obtain rfl | rfl | rfl | rfl := hrow <;> exact answers_of_effect rfl

/-- After a run from registers that hold `start`, every read answers the most recent covering writes (R39). -/
theorem runCmds_readsMostRecent (cs : List Instr) {start : Reg → Byte} {s : State} (hs : ∀ r, s.regs.get r = start r) :
    ∃ t, runCmds cs s = some t ∧ ReadsMostRecent cs start t := by
  obtain ⟨t, hrun, hregs⟩ := runCmds_regs cs s
  simp only [hs] at hregs
  refine ⟨t, hrun, fun row hrow => ?_, fun row hrow => ?_⟩
  · rw [← hregs]; exact answers_read hrow t
  · rw [← hregs, ← hregs]; exact answers_readPair hrow t

/-- A command that writes nothing keeps the register file and returns a value (R37). -/
theorem effect_of_writes_eq_nil {i : Instr} (h : writes i = []) (rf : RegFile) : ∃ w, effect i rf = (rf, .value w) := by
  cases i with
  | seta v | setf v | setb v | setc v | setd v | sete v | seth v | setl v => cases h
  | setaf v | setbc v | setde v | sethl v => cases h
  | _ => exact ⟨_, rfl⟩

/-- A command does to the registers nothing more the second time (R37). -/
theorem effect_regs_idem (i : Instr) (rf : RegFile) : (effect i (effect i rf).1).1 = (effect i rf).1 := by
  refine RegFile.ext_get fun r => ?_
  rw [get_effect, get_effect]
  cases (stores i).lookup r <;> rfl

end Sys2Proof.Claims
end

section
/-! The statements about what reads see of the writes before them (spec/20_memory.md). -/

namespace Sys2Proof.Claims

open Sys2Proof.Machine

/-- Settles O18: the run of the writes leaves each half where its own write was the last one, and the reads answer it. -/
theorem pairAndByteAccessesSeeEachOther : Obligations.PairAndByteAccessesSeeEachOther := by
  intro row hrow s
  obtain ⟨hne, hreadX, hreadY⟩ := pairRow_reads row hrow
  obtain ⟨hX, hY, -⟩ := pairRow_stores hrow
  refine ⟨fun v => ?_, fun h l mid post hframe => ?_, fun h => ?_, fun l => ?_⟩
  · obtain ⟨t, hexec, htx, hty⟩ := exec_writePair hrow v s
    refine ⟨t, hexec, ?_, ?_⟩
    · rw [hreadX, show v.extractLsb' 8 8 = shiftHigh v from highByte_eq_shiftHigh v, ← htx]
      exact answers_readOf row.x t
    · rw [hreadY, show v.extractLsb' 0 8 = maskLow v from lowByte_eq_maskLow v, ← hty]
      exact answers_readOf row.y t
  · obtain ⟨t, hrunXY, htx, hty⟩ := runCmds_two_writes (hX h) (hY l) hne hframe s
    obtain ⟨u, hrunYX, huy, hux⟩ := runCmds_two_writes (hY l) (hX h) hne.symm (fun k hk => (hframe k hk).symm) s
    refine ⟨t, u, hrunXY, ?_, hrunYX, ?_⟩
    · simpa only [htx, hty] using answers_readPair hrow t
    · simpa only [hux, huy] using answers_readPair hrow u
  · obtain ⟨t, hexec, htx, hty⟩ := exec_of_stores_singleton (hX h) s
    exact ⟨t, hexec, by simpa only [htx, hty row.y hne.symm] using answers_readPair hrow t⟩
  · obtain ⟨t, hexec, hty, htx⟩ := exec_of_stores_singleton (hY l) s
    exact ⟨t, hexec, by simpa only [hty, htx row.x hne] using answers_readPair hrow t⟩

/-- Settles O32: without writes no register file changes, so an answer repeats; and no write does more a second time. -/
theorem readsAreRepeatableAndWritesIdempotent : Obligations.ReadsAreRepeatableAndWritesIdempotent := by
  refine ⟨fun i cs s hi hcs => ?_, fun i s _ => ?_⟩
  · obtain ⟨w, hw⟩ := effect_of_writes_eq_nil hi s.regs
    obtain ⟨t, hrun, hregs⟩ := runCmds_regs (i :: cs) s
    have hkept : ∀ r, t.regs.get r = s.regs.get r := fun r =>
      (hregs r).trans (mostRecent_of_notMem_writes (by simp +contextual [hi, hcs]) _)
    have hrf : t.regs = s.regs := RegFile.ext_get hkept
    exact ⟨w, t, answers_of_effect hw, hrun, hkept, answers_of_effect (by rw [hrf]; exact hw)⟩
  · exact ⟨_, _, runCmds_cons i [] s, (runCmds_cons i [i] s).trans (runCmds_cons i [] _), effect_regs_idem i s.regs⟩

/-- Settles O33: a run leaves the most recent writes in the registers, and a reset makes `INIT` what it starts from. -/
theorem readsReturnTheMostRecentWrite : Obligations.ReadsReturnTheMostRecentWrite := by
  intro cs
  refine ⟨fun s => runCmds_readsMostRecent cs fun _ => rfl,
    fun INIT => runCmds_readsMostRecent cs (RegFile.get_ofInit INIT), fun INIT valid w s => ?_⟩
  obtain ⟨t0, hcycle, hregs⟩ := cycle_reset_regs INIT valid w s
  obtain ⟨t, hrun, hreads⟩ := runCmds_readsMostRecent cs fun r => by rw [hregs, RegFile.get_ofInit]
  exact ⟨t0, t, hcycle, hrun, hreads⟩

/-- Settles O36, by induction on the commands: each step serves the word of the first one and runs it. -/
theorem portRunsCommandsInIssueOrder : Obligations.PortRunsCommandsInIssueOrder := by
  intro cs
  induction cs with
  | nil => exact fun s rest hpending => ⟨s, by cases s; cases hpending; rfl, run_zero s⟩
  | cons i cs ih =>
    intro s rest hpending
    obtain ⟨t, hcmds, hrun⟩ := ih (State.complete { s with pending := _ } (effect i s.regs)) rest rfl
    exact ⟨t, (runCmds_cons i cs _).trans hcmds, (run_succ_of_next (step_of_pending_command hpending) _).trans hrun⟩

end Sys2Proof.Claims
end

section
/-! The decoder and the list of R54 read the same fields: the tests of both as comparisons of numbers, and the word put
together again from what the decoder takes out of it. -/

namespace Sys2Proof

theorem opcodeByte_eq_fields (w : CmdWord) : opcodeByte w = 16 * (fieldCls w).toNat + (fieldSel w).toNat := by
  rw [toNat_fieldCls, toNat_fieldSel, opcodeByte]
  omega

theorem immediate_eq_toNat (w : CmdWord) : immediate w = (fieldImm w).toNat := (toNat_fieldImm w).symm

/-- Bit 3 of `sel` is what a number from 8 on has (R54 (b)). -/
theorem getLsbD_three_iff (sel : BitVec 4) : sel.getLsbD 3 = true ↔ 8 ≤ sel.toNat := by revert sel; decide

/-- The bits from `n` on are zero for the numbers below `2 ^ n` (R54 (c), (e)). -/
theorem extractLsb'_high_eq_zero_iff {n m : Nat} (x : BitVec (n + m)) :
    x.extractLsb' n m = 0#m ↔ x.toNat < 2 ^ n := by
  have hlt : x.toNat / 2 ^ n < 2 ^ m := Nat.div_lt_of_lt_mul (Nat.pow_add 2 n m ▸ x.isLt)
  rw [← BitVec.toNat_inj, BitVec.extractLsb'_toNat, Nat.shiftRight_eq_div_pow, Nat.mod_eq_of_lt hlt]
  simp [Nat.div_eq_zero_iff]

/-- The decoder rejects a word under the item of R54 that lists it (R54, R55): each of the decoder's branches is one range of
opcode bytes, cut in two by a bound on the immediate. -/
theorem decodeCmd_eq_error_iff (w : CmdWord) (r : Reserved) : decodeCmd w = .error r ↔ reservedReason w = some r := by
  have hop := opcodeByte_eq_fields w
  have himm := immediate_eq_toNat w
  have hsel := (fieldSel w).isLt
  simp only [decodeCmd, ne_eq, getLsbD_three_iff, extractLsb'_high_eq_zero_iff (n := 2) (m := 2),
    extractLsb'_high_eq_zero_iff (n := 4) (m := 12), extractLsb'_high_eq_zero_iff (n := 8) (m := 8), BitVec.toNat_eq]
  split_ifs <;>
    grind [reservedReason, inReservedClass, namesNoRegister, namesNoPair, namesNoCodecCommand, hasForbiddenImmediate]

theorem encodeCmd_readOf (r : Reg) : encodeCmd (Instr.readOf r) = wordG8 r := by cases r <;> rfl

theorem encodeCmd_writeOf (r : Reg) (v : Byte) : encodeCmd (Instr.writeOf r v) = wordS8 r v := by cases r <;> rfl

theorem encodeCmd_readPairOf (p : Pair) : encodeCmd (Instr.readPairOf p) = wordG16 p := by cases p <;> rfl

theorem encodeCmd_writePairOf (p : Pair) (v : Half) : encodeCmd (Instr.writePairOf p v) = wordS16 p v := by
  cases p <;> rfl

/-- A `sel` without bit 3 is a register number (R31). -/
theorem regNumber_eq_sel {sel : BitVec 4} (h : ¬ sel.getLsbD 3 = true) :
    0#1 ++ (Reg.ofNumber (sel.extractLsb' 0 3)).number = sel := by
  revert sel; decide

/-- A `sel` without bits 3 and 2 is a pair number (R31). -/
theorem pairNumber_eq_sel {sel : BitVec 4} (h : ¬ sel.extractLsb' 2 2 ≠ 0#2) :
    0#2 ++ (Pair.ofNumber (sel.extractLsb' 0 2)).number = sel := by
  revert sel; decide

/-- An immediate with `imm[15:8] = 0` is an 8-bit operand (R48). -/
theorem byte_eq_imm {imm : Half} (h : ¬ imm.extractLsb' 8 8 ≠ 0#8) : 0#8 ++ imm.extractLsb' 0 8 = imm := by
  rw [← not_not.1 h, BitVec.extractLsb'_append_extractLsb']

/-- An immediate with `imm[15:4] = 0` is a flags record (R48). -/
theorem flags_eq_imm {imm : Half} (h : ¬ imm.extractLsb' 4 12 ≠ 0#12) :
    0#12 ++ (Flags.unpack (imm.extractLsb' 0 4)).pack = imm := by
  rw [Flags.pack_unpack, ← not_not.1 h, BitVec.extractLsb'_append_extractLsb']

/-- Values that stand in the three fields of a word make it up (R47). -/
theorem append_eq_word {w : CmdWord} {c s : BitVec 4} {m : Half} (hcls : fieldCls w = c) (hsel : s = fieldSel w)
    (himm : m = fieldImm w) : c ++ s ++ m = w := by
  rw [← hcls, hsel, himm, word_eq_fields]

/-- Every legal word is the word of the command it decodes to (R55): in each format the fields the decoder takes out, put
back in their places, are all of the word. -/
theorem encodeCmd_of_decodeCmd (w : CmdWord) (i : Instr) (h : decodeCmd w = .ok i) : encodeCmd i = w := by
  simp only [decodeCmd] at h
  split_ifs at h <;> obtain rfl := Except.ok.inj h
  next hcls hsel himm =>
    rw [encodeCmd_readOf, wordG8_eq_fields]
    exact append_eq_word hcls (regNumber_eq_sel hsel) (not_not.1 himm).symm
  next hcls hsel himm =>
    rw [encodeCmd_writeOf, wordS8_eq_fields]
    exact append_eq_word hcls (regNumber_eq_sel hsel) (byte_eq_imm himm)
  next hcls hsel himm =>
    rw [encodeCmd_readPairOf, wordG16_eq_fields]
    exact append_eq_word hcls (pairNumber_eq_sel hsel) (not_not.1 himm).symm
  next hcls hsel =>
    rw [encodeCmd_writePairOf, wordS16_eq_fields]
    exact append_eq_word hcls (pairNumber_eq_sel hsel) rfl
  next hcls hsel himm =>
    exact (wordENC_eq_fields _).trans (append_eq_word hcls hsel.symm (flags_eq_imm himm))
  next hcls _ hsel himm =>
    exact (wordDEC_eq_fields _).trans (append_eq_word hcls hsel.symm (byte_eq_imm himm))

/-- Decoding is the inverse of encoding, both ways (R55). -/
theorem decodeCmd_eq_ok_iff (w : CmdWord) (i : Instr) : decodeCmd w = .ok i ↔ encodeCmd i = w :=
  ⟨encodeCmd_of_decodeCmd w i, fun h => h ▸ decodeCmd_encodeCmd i⟩

/-- No word stands for two commands (R55). -/
theorem encodeCmd_injective : Function.Injective encodeCmd := fun i j h =>
  Except.ok.inj ((decodeCmd_encodeCmd i).symm.trans ((congrArg decodeCmd h).trans (decodeCmd_encodeCmd j)))

theorem exists_error_iff_not_exists_ok (w : CmdWord) :
    (∃ r, decodeCmd w = .error r) ↔ ¬ ∃ i, decodeCmd w = .ok i := by
  cases decodeCmd w <;> simp

theorem exists_error_of_not_wellFormed {w : CmdWord} (h : wordWellFormed w = false) : ∃ r, decodeCmd w = .error r := by
  obtain ⟨r, hr⟩ := Option.isSome_iff_exists.1 (Option.isNone_eq_false_iff.1 h)
  exact ⟨r, (decodeCmd_eq_error_iff w r).2 hr⟩

/-! The rows of R49 by format: the mnemonic, the format's word with a zero operand, and a mask with ones wherever the format
has no operand bit. -/

theorem opcodeRowsG8_eq : opcodeRowsG8 =
    [Reg.A, .F, .B, .C, .D, .E, .H, .L].map fun r => ⟨(Instr.readOf r).mnemonic, wordG8 r, 0xFFFFFF#24⟩ := by
  decide

theorem opcodeRowsS8_eq : opcodeRowsS8 =
    [Reg.A, .F, .B, .C, .D, .E, .H, .L].map fun r => ⟨(Instr.writeOf r 0#8).mnemonic, wordS8 r 0#8, 0xFFFF00#24⟩ := by
  decide

theorem opcodeRowsPairs_eq : opcodeRowsPairs =
    ([Pair.AF, .BC, .DE, .HL].map fun p => ⟨(Instr.readPairOf p).mnemonic, wordG16 p, 0xFFFFFF#24⟩) ++
      [Pair.AF, .BC, .DE, .HL].map fun p => ⟨(Instr.writePairOf p 0#16).mnemonic, wordS16 p 0#16, 0xFF0000#24⟩ := by
  decide

theorem mnemonic_writeOf (r : Reg) (v v' : Byte) : (Instr.writeOf r v).mnemonic = (Instr.writeOf r v').mnemonic := by
  cases r <;> rfl

theorem mnemonic_writePairOf (p : Pair) (v v' : Half) :
    (Instr.writePairOf p v).mnemonic = (Instr.writePairOf p v').mnemonic := by
  cases p <;> rfl

/-- A word that agrees with `k` above its lowest `n` bits is `k` followed by those bits. -/
theorem eq_append_of_and_mask {m n : Nat} {w : BitVec (m + n)} {k : BitVec m}
    (h : w &&& (BitVec.allOnes m ++ 0#n) = k ++ 0#n) : w = k ++ w.extractLsb' 0 n := by
  ext i hi
  have hbit := congrArg (BitVec.getLsbD · i) h
  simp only [BitVec.getLsbD_and, BitVec.getLsbD_append] at hbit
  grind

/-- A word that matches a row of R49 is the word of a command with that row's mnemonic. -/
theorem exists_encodeCmd_of_admits {row : OpcodeRow} (hrow : row ∈ opcodeMap) {w : CmdWord} (h : row.admits w = true) :
    ∃ i, encodeCmd i = w ∧ i.mnemonic = row.mnemonic := by
  have hmask : w &&& row.mask = row.pattern := beq_iff_eq.1 h
  simp only [opcodeMap, opcodeRowsG8_eq, opcodeRowsS8_eq, opcodeRowsPairs_eq, opcodeRowsCodec, List.mem_append,
    List.mem_map] at hrow
  obtain ((⟨r, -, rfl⟩ | ⟨r, -, rfl⟩) | ⟨p, -, rfl⟩ | ⟨p, -, rfl⟩) | hcodec := hrow
  · exact ⟨.readOf r, (encodeCmd_readOf r).trans (hmask.symm.trans BitVec.and_allOnes), rfl⟩
  · have hword := (eq_append_of_and_mask (m := 16) (n := 8) hmask).symm
    exact ⟨.writeOf r _, (encodeCmd_writeOf r _).trans hword, mnemonic_writeOf r _ _⟩
  · exact ⟨.readPairOf p, (encodeCmd_readPairOf p).trans (hmask.symm.trans BitVec.and_allOnes), rfl⟩
  · have hword := (eq_append_of_and_mask (m := 8) (n := 16) hmask).symm
    exact ⟨.writePairOf p _, (encodeCmd_writePairOf p _).trans hword, mnemonic_writePairOf p _ _⟩
  · simp only [List.mem_cons, List.not_mem_nil, or_false] at hcodec
    obtain rfl | rfl := hcodec
    · refine ⟨.encode (Flags.unpack (w.extractLsb' 0 4)), ?_, rfl⟩
      rw [encodeCmd, wordENC, Flags.pack_unpack]
      exact (eq_append_of_and_mask (m := 20) (n := 4) hmask).symm
    · exact ⟨.decode _, (eq_append_of_and_mask (m := 16) (n := 8) hmask).symm, rfl⟩

open Laws.EncodesInItsRow in
/-- The word of every command matches a row of R49 with the command's mnemonic. -/
theorem exists_row_admits : ∀ i, Laws.EncodesInItsRow.Statement i
  | .geta => geta | .getf => getf | .getb => getb | .getc => getc
  | .getd => getd | .gete => gete | .geth => geth | .getl => getl
  | .seta v => seta v | .setf v => setf v | .setb v => setb v | .setc v => setc v
  | .setd v => setd v | .sete v => sete v | .seth v => seth v | .setl v => setl v
  | .getaf => getaf | .getbc => getbc | .getde => getde | .gethl => gethl
  | .setaf v => setaf v | .setbc v => setbc v | .setde v => setde v | .sethl v => sethl v
  | .encode fl => encode fl | .decode b => decode b

theorem mnemonics_nodup : (opcodeMap.map OpcodeRow.mnemonic).Nodup := by decide

/-- No two rows of R49 have one mnemonic. -/
theorem row_eq_of_mnemonic_eq {row row' : OpcodeRow} (hrow : row ∈ opcodeMap) (hrow' : row' ∈ opcodeMap)
    (h : row.mnemonic = row'.mnemonic) : row = row' :=
  List.inj_on_of_nodup_map mnemonics_nodup hrow hrow' h

/-- A word matches a row of R49 exactly when it is the word of a command with that row's mnemonic. -/
theorem admits_iff {row : OpcodeRow} (hrow : row ∈ opcodeMap) (w : CmdWord) :
    row.admits w = true ↔ ∃ i, encodeCmd i = w ∧ i.mnemonic = row.mnemonic := by
  refine ⟨exists_encodeCmd_of_admits hrow, ?_⟩
  rintro ⟨i, rfl, hmnemonic⟩
  obtain ⟨own, hown, hownMnemonic, hadmits⟩ := exists_row_admits i
  rwa [row_eq_of_mnemonic_eq hrow hown (hmnemonic.symm.trans hownMnemonic.symm)]

/-! The number of commands (R54). -/

theorem natCard_bitVec (n : Nat) : Nat.card (BitVec n) = 2 ^ n := by
  rw [Nat.card_congr BitVec.equivFin.toEquiv, Nat.card_fin]

/-- A flags record is its four wire bits (R52). -/
def Flags.equivWire : Flags ≃ BitVec 4 := ⟨Flags.pack, Flags.unpack, Flags.unpack_pack, Flags.pack_unpack⟩

/-- A command as its place among the 26 together with its operand. -/
def Instr.equivSum := proxy_equiv% Instr

/-- Twelve commands without operand, nine with a byte, four with a half-word, and one with the flags. -/
theorem natCard_instr : Nat.card Instr = 264476 := by
  have : Finite Flags := .of_equiv _ Flags.equivWire.symm
  rw [Nat.card_congr Instr.equivSum.symm]
  simp only [Nat.card_sum, Nat.card_unique, natCard_bitVec, Nat.card_congr Flags.equivWire]
  rfl

/-- The legal words are the words of the commands, one each (R55). -/
theorem natCard_legal : Nat.card { w : CmdWord // ∃ i, decodeCmd w = .ok i } = Nat.card Instr := by
  refine (Nat.card_eq_of_bijective (fun i => ⟨encodeCmd i, i, decodeCmd_encodeCmd i⟩) ⟨fun i j h => ?_, ?_⟩).symm
  · exact encodeCmd_injective (congrArg Subtype.val h)
  · rintro ⟨w, i, hi⟩
    exact ⟨i, Subtype.ext (encodeCmd_of_decodeCmd w i hi)⟩

/-- Every word is legal or reserved, and none is both (R54). -/
theorem natCard_legal_add_reserved :
    Nat.card { w : CmdWord // ∃ i, decodeCmd w = .ok i } + Nat.card { w : CmdWord // ∃ r, decodeCmd w = .error r } =
      2 ^ 24 := by
  classical
  simp only [exists_error_iff_not_exists_ok]
  rw [← Nat.card_sum, Nat.card_congr (Equiv.sumCompl _), natCard_bitVec]

end Sys2Proof
end

section
/-! The statements about the command word (spec/30_encoding.md). -/

namespace Sys2Proof.Claims

/-- Settles O1, by the decoder on the six formats. -/
theorem decodeInvertsEncode : Obligations.DecodeInvertsEncode := decodeCmd_encodeCmd

/-- Settles O2: what the decoder takes out of a legal word is all of the word. -/
theorem encodeInvertsDecode : Obligations.EncodeInvertsDecode := encodeCmd_of_decodeCmd

/-- Settles O3: the tests of the decoder and of the list, as comparisons of the same two numbers, agree. -/
theorem rejectedWordsAreTheListedOnes : Obligations.RejectedWordsAreTheListedOnes := decodeCmd_eq_error_iff

/-- Settles O4: matching a row, like decoding, says which command's word a word is; and a mnemonic names one row. -/
theorem opcodeMapAgreesWithDecoder : Obligations.OpcodeMapAgreesWithDecoder := by
  refine ⟨fun row hrow w => ?_, fun row hrow row' hrow' w h h' => ?_, fun w i hi => ?_⟩
  · simp only [admits_iff hrow, decodeCmd_eq_ok_iff]
  · obtain ⟨i, hi, hmnemonic⟩ := (admits_iff hrow w).1 h
    obtain ⟨j, hj, hmnemonic'⟩ := (admits_iff hrow' w).1 h'
    obtain rfl : i = j := encodeCmd_injective (hi.trans hj.symm)
    exact row_eq_of_mnemonic_eq hrow hrow' (hmnemonic.symm.trans hmnemonic')
  · obtain ⟨row, hrow, hmnemonic, hadmits⟩ := exists_row_admits i
    exact ⟨row, hrow, encodeCmd_of_decodeCmd w i hi ▸ hadmits, hmnemonic⟩

/-- Settles O5: there are as many legal words as commands, and the other words are reserved. -/
theorem legalAndReservedWordCounts : Obligations.LegalAndReservedWordCounts := by
  have hlegal := natCard_legal.trans natCard_instr
  have hsum := natCard_legal_add_reserved
  exact ⟨hlegal, by omega⟩

/-- Settles O6, by the decoder on the words written out. -/
theorem sampleWordsDecode : Obligations.SampleWordsDecode := by
  unfold Obligations.SampleWordsDecode
  decide

end Sys2Proof.Claims
end

section
/-! The rules the statements about the port and the master rest on: what one cycle does for each thing it can present, the
operands of a line of the assembler, and the four lines the pseudo-commands are made of. -/

namespace Sys2Proof.Machine

theorem serve_idle {inp : PortIn} (h : inp.cmdValid = false) (s : State) : serve inp s = .next s.idle := by
  simp [serve, h]

theorem serve_command {inp : PortIn} {i : Instr} (hv : inp.cmdValid = true) (hd : decodeCmd inp.cmd = .ok i) (s : State) :
    serve inp s = .next (s.complete (effect i s.regs)) := by
  simp [serve, hv, issueWord, hd, exec_eq]

theorem serve_reserved {inp : PortIn} {r : Reserved} (hv : inp.cmdValid = true) (hd : decodeCmd inp.cmd = .error r)
    (s : State) : serve inp s = .next (s.takeIllegalCommand inp.cmd) := by
  simp [serve, hv, issueWord, hd]

/-- Whatever a cycle presents is served, the cycles to come stay as they are, and an outcome comes back exactly if a word
was presented (R46). -/
theorem exists_serve (inp : PortIn) (s : State) :
    ∃ t, serve inp s = .next t ∧ t.pending = s.pending ∧ (t.reply ≠ none ↔ inp.cmdValid = true) := by
  cases hv : inp.cmdValid with
  | false => exact ⟨_, serve_idle hv s, rfl, by simp⟩
  | true =>
    cases hd : decodeCmd inp.cmd with
    | ok i => exact ⟨_, serve_command hv hd s, rfl, by simp⟩
    | error r => exact ⟨_, serve_reserved hv hd s, rfl, by simp⟩

/-- The closing edge of a cycle loads `INIT` or changes nothing, and leaves the outcome alone (R46, R105). -/
theorem cycle_of_serve (INIT : Reg → Byte) {inp : PortIn} {s t : State} (h : serve inp s = .next t) :
    ∃ u, cycle INIT inp s = .next u ∧ u.reply = t.reply ∧ u.pending = t.pending ∧
      (inp.rst = true → u.regs = RegFile.ofInit INIT) ∧ (inp.rst = false → u = t) := by
  refine ⟨if inp.rst then t.resetRegs INIT else t, by rw [cycle, h]; rfl, ?_⟩
  cases inp.rst <;> simp

/-- A step that has a word to serve does what the word's cycle does, with no reset. -/
theorem step_of_pending_word {s t : State} {w : CmdWord} {rest : List PortIn} (h : s.pending = presentWord w :: rest)
    (hserve : serve (presentWord w) { s with pending := rest } = .next t) : step s = .next t := by
  obtain ⟨u, hcycle, -, -, -, hu⟩ := cycle_of_serve Config.INIT hserve
  rw [step_of_pending_cons h, hcycle, hu rfl]

/-- A reset cycle and the same cycle without reset have the same outputs and leave the same cycles to come; the reset cycle
leaves `INIT` in the registers (R105, R120). -/
theorem cycle_reset (INIT : Reg → Byte) (valid : Bool) (w : CmdWord) (s : State) :
    ∃ t u, cycle INIT ⟨true, valid, w⟩ s = .next t ∧ cycle INIT ⟨false, valid, w⟩ s = .next u ∧
      (∀ r, t.regs.get r = INIT r) ∧ t.outputs = u.outputs ∧ t.pending = s.pending := by
  obtain ⟨served, hserve, hpending, -⟩ := exists_serve ⟨true, valid, w⟩ s
  obtain ⟨t, ht, htReply, htPending, htRegs, -⟩ := cycle_of_serve INIT hserve
  obtain ⟨u, hu, huReply, -⟩ := cycle_of_serve INIT (inp := ⟨false, valid, w⟩) hserve
  refine ⟨t, u, ht, hu, fun r => ?_, congrArg portOut (htReply.trans huReply.symm), htPending.trans hpending⟩
  rw [htRegs rfl, RegFile.get_ofInit]

theorem State.complete_complete (s : State) (x y : RegFile × Reply) : (s.complete x).complete y = s.complete y := rfl

theorem operand8_toNat (prev : Option Half) (v : Byte) : operand8 prev (.lit v.toNat) = some v := by
  have hv : v.toNat ≤ 255 := Nat.le_of_lt_succ v.isLt
  simp [operand8, literal8WellFormed, hv]

theorem operand16_toNat (prev : Option Half) (v : Half) : operand16 prev (.lit v.toNat) = some v := by
  have hv : v.toNat ≤ 65535 := Nat.le_of_lt_succ v.isLt
  simp [operand16, literal16WellFormed, hv]

theorem operand8_of_gt (prev : Option Half) {n : Nat} (h : 255 < n) : operand8 prev (.lit n) = none := by
  simp [operand8, literal8WellFormed, h]

theorem operand16_of_gt (prev : Option Half) {n : Nat} (h : 65535 < n) : operand16 prev (.lit n) = none := by
  simp [operand16, literal16WellFormed, h]

theorem operandFlags_of_gt (prev : Option Half) {z s hc c : Nat} (h : 1 < z ∨ 1 < s ∨ 1 < hc ∨ 1 < c) :
    operandFlags prev [.lit z, .lit s, .lit hc, .lit c] = none := by
  simp only [operandFlags, flagLiteralWellFormed, Bool.and_eq_true, decide_eq_true_eq]
  exact if_neg (by omega)

theorem assemble_encode (prev : Option Half) (ops : List Operand) :
    assemble prev ⟨"ENCODE", ops⟩ = (operandFlags prev ops).map .encode := rfl

/-- Without a previous response no mnemonic takes `$`. -/
theorem assemble_dollar_none (m : String) : assemble none ⟨m, [.dollar]⟩ = none := by
  have hvalue : valueMnemonic none .dollar m = none := by
    unfold valueMnemonic
    split <;> rfl
  unfold assemble
  split
  · rfl
  · exact hvalue

/-- `$` takes back the byte an 8-bit answer was made of (R50, R56). -/
theorem lowByte_byteResponse (b : Byte) : lowByte (byteResponse b) = b := by
  apply BitVec.eq_of_toNat_eq
  have := b.isLt
  rw [toNat_lowByte, byteResponse, BitVec.toNat_setWidth]
  omega

/-- `GETF` ; `DECODE $`: the flags of F are answered, and no register changes (R57). -/
theorem runLines_getf_decode (rest : List Line) (s : State) :
    runLines (⟨"GETF", []⟩ :: ⟨"DECODE", [.dollar]⟩ :: rest) s =
      runLines rest (s.complete (answerDecode s.regs.F s.regs)) := by
  rw [runLines_of_assembles (i := .getf) rfl, runLines_of_assembles (i := .decode s.regs.F), State.complete_complete]
  · rfl
  · exact congrArg (fun b => some (Instr.decode b)) (lowByte_byteResponse _)

/-- `ENCODE` of some flags ; `SETF $`: F becomes the byte of the flags (R58). -/
theorem runLines_encode_setf {ops : List Operand} {s : State} {fl : Flags} (h : operandFlags s.lastResponse ops = some fl)
    (rest : List Line) :
    runLines (⟨"ENCODE", ops⟩ :: ⟨"SETF", [.dollar]⟩ :: rest) s =
      runLines rest (s.complete (writeReg .F (encodeFlags fl) s.regs)) := by
  rw [runLines_of_assembles (i := .encode fl), runLines_of_assembles (i := .setf (encodeFlags fl)),
    State.complete_complete]
  · rfl
  · exact congrArg (fun b => some (Instr.setf b)) (lowByte_byteResponse _)
  · rw [assemble_encode, h]; rfl

/-- R96 on the functions: what decoding and encoding lose is the low nibble. -/
theorem encodeFlags_decodeFlags (b : Byte) : encodeFlags (decodeFlags b) = b &&& 0xF0#8 := by
  rw [decodeFlags_eq_bits, encodeFlags_eq_pack_append]
  revert b
  decide

/-- A record on the response word stands in `resp[3:0]` and nowhere else (R50, R52). -/
theorem flagsResponse_bits (fl : Flags) :
    (flagsResponse fl).getLsbD 3 = fl.zero ∧ (flagsResponse fl).getLsbD 2 = fl.subtract ∧
      (flagsResponse fl).getLsbD 1 = fl.halfCarry ∧ (flagsResponse fl).getLsbD 0 = fl.carry ∧
      (flagsResponse fl).toNat < 16 := by
  obtain ⟨z, s, hc, c⟩ := fl
  revert z s hc c
  decide

theorem unpack_flagsResponse (fl : Flags) : Flags.unpack ((flagsResponse fl).extractLsb' 0 4) = fl := by
  obtain ⟨z, s, hc, c⟩ := fl
  revert z s hc c
  decide

/-- After `DECODE b` the `$` of an `ENCODE` line is the record of `b` (R56, R59). -/
theorem operandFlags_after_decode (s : State) (b : Byte) (rf : RegFile) :
    operandFlags (s.complete (answerDecode b rf)).lastResponse [.dollar] = some (decodeFlags b) :=
  congrArg some (unpack_flagsResponse _)

end Sys2Proof.Machine

namespace Sys2Proof.Claims

open Sys2Proof.Machine

/-- A command that writes returns no value (R50). -/
theorem effect_of_writes_ne_nil {i : Instr} (h : writes i ≠ []) (rf : RegFile) : (effect i rf).2 = .done := by
  cases i with
  | geta | getf | getb | getc | getd | gete | geth | getl | getaf | getbc | getde | gethl => exact absurd rfl h
  | encode fl | decode b => exact absurd rfl h
  | _ => rfl

theorem toNat_encodeFlags (fl : Flags) :
    (encodeFlags fl).toNat = 128 * bit fl.zero + 64 * bit fl.subtract + 32 * bit fl.halfCarry + 16 * bit fl.carry := by
  obtain ⟨z, s, hc, c⟩ := fl
  revert z s hc c
  decide

theorem flagLiteralWellFormed_bit (b : Bool) : flagLiteralWellFormed (bit b) = true := by cases b <;> rfl

theorem bit_beq_one (b : Bool) : (bit b == 1) = b := by cases b <;> rfl

theorem operandFlags_bits (prev : Option Half) (fl : Flags) :
    operandFlags prev [.lit (bit fl.zero), .lit (bit fl.subtract), .lit (bit fl.halfCarry), .lit (bit fl.carry)] =
      some fl := by
  simp [operandFlags, flagLiteralWellFormed_bit, bit_beq_one]

theorem assemble_byteLine {p : String × (Byte → Instr)} (hp : p ∈ byteLines) (prev : Option Half) (op : Operand) :
    assemble prev ⟨p.1, [op]⟩ = (operand8 prev op).map p.2 := by
  simp only [byteLines, List.mem_cons, List.not_mem_nil, or_false] at hp
  obtain rfl | rfl | rfl | rfl | rfl | rfl | rfl | rfl | rfl := hp <;> rfl

theorem assemble_halfLine {p : String × (Half → Instr)} (hp : p ∈ halfLines) (prev : Option Half) (op : Operand) :
    assemble prev ⟨p.1, [op]⟩ = (operand16 prev op).map p.2 := by
  simp only [halfLines, List.mem_cons, List.not_mem_nil, or_false] at hp
  obtain rfl | rfl | rfl | rfl := hp <;> rfl

/-- The line of a command assembles to the command, whatever was answered before (R56). -/
theorem assemble_lineOf (i : Instr) (prev : Option Half) : assemble prev (lineOf i) = some i := by
  cases i with
  | geta | getf | getb | getc | getd | gete | geth | getl | getaf | getbc | getde | gethl => rfl
  | seta v | setf v | setb v | setc v | setd v | sete v | seth v | setl v | decode v =>
    exact congrArg (Option.map _) (operand8_toNat prev v)
  | setaf v | setbc v | setde v | sethl v => exact congrArg (Option.map _) (operand16_toNat prev v)
  | encode fl => exact congrArg (Option.map _) (operandFlags_bits prev fl)

/-- Running the line of a command runs the command (R56). -/
theorem runLines_lineOf (i : Instr) (rest : List Line) (s : State) :
    runLines (lineOf i :: rest) s = runLines rest (s.complete (effect i s.regs)) :=
  runLines_of_assembles (assemble_lineOf i _) rest

end Sys2Proof.Claims
end

section
/-! The statements about the port and the master (spec/30_encoding.md). -/

namespace Sys2Proof.Claims

open Sys2Proof.Machine

/-- Settles O35: the number placed is the word of the command, and the step that serves the word runs the command. -/
theorem placedWordIsRunNext : Obligations.PlacedWordIsRunNext := by
  intro i s
  have hpending : (s.withFetchWord 24 (encodeCmd i).toNat).pending = presentWord (encodeCmd i) :: s.pending := by
    rw [State.withFetchWord_pending, Nat.mod_eq_of_lt (encodeCmd i).isLt, BitVec.ofNat_toNat, BitVec.setWidth_eq]
  rw [step_of_pending_command hpending, exec_eq]
  rfl

/-- Settles O37: a cycle's outputs are those of what it serves, one case for each thing it can present. -/
theorem portOutputsFollowTheOutcome : Obligations.PortOutputsFollowTheOutcome := by
  intro INIT inp s
  obtain ⟨served, hserve, -⟩ := exists_serve inp s
  obtain ⟨t, hcycle, hreply, -⟩ := cycle_of_serve INIT hserve
  have hout {u : State} (hu : serve inp s = .next u) : t.outputs = u.outputs := by
    obtain rfl := Host.Outcome.next.inj (hserve.symm.trans hu)
    exact congrArg portOut hreply
  refine ⟨t, hcycle, fun hv => hout (serve_idle hv s), fun hv hw => ?_, fun i hv hd => ⟨fun hi => ?_, fun hi => ?_⟩⟩
  · obtain ⟨r, hr⟩ := exists_error_of_not_wellFormed hw
    exact hout (serve_reserved hv hr s)
  · rw [hout (serve_command hv hd s), State.outputs, State.complete_reply, effect_of_writes_ne_nil hi]
    rfl
  · obtain ⟨w, hw⟩ := effect_of_writes_eq_nil hi s.regs
    refine ⟨w, answers_of_effect hw, ?_⟩
    rw [hout (serve_command hv hd s), State.outputs, State.complete_reply, hw]
    rfl

/-- Settles O39: a step with nothing driven idles, and any other serves the first cycle and leaves the rest. -/
theorem everyStepServesOneCycle : Obligations.EveryStepServesOneCycle := by
  intro s
  cases hp : s.pending with
  | nil => exact ⟨_, step_of_pending_nil hp, hp, by simp⟩
  | cons inp rest =>
    obtain ⟨served, hserve, hpending, hserved⟩ := exists_serve inp { s with pending := rest }
    obtain ⟨t, hcycle, hreply, htPending, -⟩ := cycle_of_serve Config.INIT hserve
    refine ⟨t, (step_of_pending_cons hp).trans hcycle, htPending.trans hpending, ?_⟩
    rintro _ _ ⟨⟩
    rwa [hreply]

/-- Settles O52: decoding F and encoding the record obtained keeps the high nibble, and so the flags. -/
theorem normfClearsTheLowNibbleOfF : Obligations.NormfClearsTheLowNibbleOfF := by
  intro s
  have hrun := (runLines_getf_decode _ s).trans (runLines_encode_setf (operandFlags_after_decode s _ _) [])
  refine ⟨_, hrun, encodeFlags_decodeFlags _, decodeFlags_encodeFlags _, fun r hr => ?_, rfl, rfl⟩
  exact (RegFile.get_set _ _ _ _).trans (if_neg hr)

/-- Settles O54, by the operands of each command as literals. -/
theorem everyCommandAssembles : Obligations.EveryCommandAssembles := assemble_lineOf

/-- Settles O55: the operand decides, of a line of its mnemonic, whether it assembles; and `$` is the answer before it. -/
theorem assemblerChecksLiteralsAndCarriesResponses : Obligations.AssemblerChecksLiteralsAndCarriesResponses := by
  refine ⟨fun p hp prev n hn => ?_, fun p hp prev n hn => ?_, fun prev z s hc c hn => ?_,
    fun w => ⟨fun p hp => assemble_byteLine hp _ _, fun p hp => assemble_halfLine hp _ _, ?_⟩,
    fun i j m s w hi hj => ?_, assemble_dollar_none, fun m s rest hs => ?_, fun i m s rest hi => ?_⟩
  · rw [assemble_byteLine hp, operand8_of_gt prev hn, Option.map_none]
  · rw [assemble_halfLine hp, operand16_of_gt prev hn, Option.map_none]
  · rw [assemble_encode, operandFlags_of_gt prev hn, Option.map_none]
  · rw [assemble_encode]
    simp [operandFlags, Flags.unpack]
  · obtain ⟨t, hexec, hreply, -⟩ := hi
    obtain rfl := Host.Outcome.next.inj ((exec_eq i s).symm.trans hexec)
    have hlast := (lastResponse_eq_some_iff _ w).2 hreply
    refine ⟨_, (runCmds_cons i [j] s).trans (runCmds_cons j [] _), ?_⟩
    rw [runLines_lineOf, runLines_of_assembles (by rw [hlast]; exact hj)]
    rfl
  · exact runLines_of_assembly_error (by rw [State.lastResponse, hs]; exact assemble_dollar_none m) rest
  · rw [runLines_lineOf]
    refine runLines_of_assembly_error ?_ rest
    rw [State.lastResponse, State.complete_reply, effect_of_writes_ne_nil hi]
    exact assemble_dollar_none m

/-- Settles O34: a word that decodes to a command is that command's word. -/
theorem stepRunsTheDecodedCommand : Obligations.StepRunsTheDecodedCommand := by
  intro s w rest i hpending hdecode
  rw [step_of_pending_word hpending (serve_command (inp := presentWord w) rfl hdecode _), exec_eq]

/-- Settles O41: the step takes IllegalCommand, which keeps the registers and the mark that is already there. -/
theorem reservedWordRaisesIllegalCommand : Obligations.ReservedWordRaisesIllegalCommand := by
  intro s w rest hpending hw
  obtain ⟨r, hr⟩ := exists_error_of_not_wellFormed hw
  have hstep := step_of_pending_word hpending (serve_reserved (inp := presentWord w) rfl hr _)
  refine ⟨_, hstep, fun _ => rfl, rfl, rfl, rfl, ?_⟩
  show s.illegalSeen.or (some w) = _
  cases s.illegalSeen <;> rfl

/-- Settles O47: the closing edge alone tells a reset cycle from the same cycle without reset. -/
theorem resetWinsOverACommand : Obligations.ResetWinsOverACommand := by
  refine ⟨cycle_reset, fun valid w rest s hpending => ?_⟩
  rw [step_of_pending_cons hpending]
  exact cycle_reset Config.INIT valid w { s with pending := rest }

/-- Settles O50: the lines of GETFLAGS answer the record of F, which stands in `resp[3:0]`. -/
theorem getflagsAnswersTheFlagsOfF : Obligations.GetflagsAnswersTheFlagsOfF := by
  intro s
  obtain ⟨hz, hs, hhc, hc, hlt⟩ := flagsResponse_bits (decodeFlags s.regs.F)
  exact ⟨_, _, runLines_getf_decode [] s, rfl, hz.trans (bitSet_eq_getLsbD _ 7), hs.trans (bitSet_eq_getLsbD _ 6),
    hhc.trans (bitSet_eq_getLsbD _ 5), hc.trans (bitSet_eq_getLsbD _ 4), hlt, fun _ => rfl, rfl, rfl⟩

/-- Settles O51: the lines of SETFLAGS write the byte of the four flags to F. -/
theorem setflagsWritesTheFlagsOfF : Obligations.SetflagsWritesTheFlagsOfF := by
  intro fl s
  refine ⟨_, runLines_encode_setf (operandFlags_bits _ fl) [], toNat_encodeFlags fl, fun r hr => ?_, rfl, rfl⟩
  exact (RegFile.get_set _ _ _ _).trans (if_neg hr)

end Sys2Proof.Claims
end

section
/-! The rules the statements about the 8-bit commands rest on: what one row of R61 to R76 holds, what writes of registers do
one after another, and the step that serves a command's word. -/

namespace Sys2Proof

/-- A word with zeros in its lowest `n` bits takes an operand there (R48, R49). -/
theorem append_zero_or_setWidth {m n : Nat} (k : BitVec m) (v : BitVec n) : k ++ 0#n ||| v.setWidth (m + n) = k ++ v := by
  have hwide : v.setWidth (m + n) = 0#m ++ v := by
    rw [BitVec.append_def, BitVec.setWidth'_eq, BitVec.shiftLeftZeroExtend_eq]
    simp
  rw [hwide, BitVec.or_append, BitVec.or_zero, BitVec.zero_or]

/-- The word of a write is the format's word with the operand in `imm[7:0]` (R48, R49). -/
theorem wordS8_zero_or (r : Reg) (v : Byte) : wordS8 r 0#8 ||| v.setWidth 24 = wordS8 r v :=
  append_zero_or_setWidth (m := 16) (n := 8) _ v

end Sys2Proof

namespace Sys2Proof.Machine

theorem effect_writeOf (r : Reg) (v : Byte) (rf : RegFile) : effect (Instr.writeOf r v) rf = writeReg r v rf := by
  cases r <;> rfl

/-- The later of two writes of one register decides (R78). -/
theorem RegFile.set_set (rf : RegFile) (r : Reg) (v1 v2 : Byte) : (rf.set r v1).set r v2 = rf.set r v2 := by
  cases r <;> rfl

/-- Writes of two registers commute (R78). -/
theorem RegFile.set_comm (rf : RegFile) {q r : Reg} (h : q ≠ r) (v1 v2 : Byte) :
    (rf.set q v1).set r v2 = (rf.set r v2).set q v1 := by
  refine RegFile.ext_get fun p => ?_
  simp only [RegFile.get_set]
  split_ifs with hr hq
  · exact absurd (hq.symm.trans hr) h
  all_goals rfl

end Sys2Proof.Machine

namespace Sys2Proof.Claims

open Sys2Proof.Machine

/-- A row of the register table is all given by its register: the commands of R55 and the words of R48. -/
theorem exists_reg_of_mem_regRows {row : RegRow} (hrow : row ∈ regRows) :
    ∃ r, row = ⟨r, Instr.readOf r, Instr.writeOf r, wordG8 r, wordS8 r 0#8⟩ := by
  simp only [regRows, List.mem_cons, List.not_mem_nil, or_false] at hrow
  obtain rfl | rfl | rfl | rfl | rfl | rfl | rfl | rfl := hrow <;> exact ⟨_, rfl⟩

theorem stores_writeOf (r : Reg) (v : Byte) : stores (Instr.writeOf r v) = [(r, v)] := by cases r <;> rfl

/-- A write of one register returns no value and leaves the seven others as they were (R60). -/
theorem leaves_writeOf (r : Reg) (v : Byte) (s : State) :
    Leaves (Instr.writeOf r v) s fun q => if q = r then v else s.regs.get q := by
  refine ⟨_, exec_eq _ s, ?_, fun q => ?_, rfl, rfl⟩
  · rw [effect_writeOf]; rfl
  · rw [effect_writeOf]; exact RegFile.get_set s.regs r q v

theorem runCmds_writeOf (r : Reg) (v : Byte) (cs : List Instr) (s : State) :
    runCmds (Instr.writeOf r v :: cs) s = runCmds cs (s.complete (writeReg r v s.regs)) := by
  rw [runCmds_cons, effect_writeOf]

/-- Two writes run one after another leave the registers written twice, and nothing of the outcome in between. -/
theorem runCmds_writeOf_writeOf (q r : Reg) (v1 v2 : Byte) (s : State) :
    runCmds [Instr.writeOf q v1, Instr.writeOf r v2] s = some (s.complete ((s.regs.set q v1).set r v2, .done)) := by
  rw [runCmds_writeOf, runCmds_writeOf]; rfl

/-- The step that serves the word of a command does to the registers and shows on the wires what the command does (R46). -/
theorem portServes_encodeCmd (i : Instr) (s : State) :
    PortServes (encodeCmd i) s (effect i s.regs).1.get (portOut (some (effect i s.regs).2)) :=
  fun _ hpending => ⟨_, step_of_pending_command hpending, rfl, fun _ => rfl, rfl, rfl⟩

end Sys2Proof.Claims
end

section
/-! The statements about the 8-bit commands (spec/40_reg8.md). -/

namespace Sys2Proof.Claims

open Sys2Proof.Machine

/-- Settles O8: a read answers its register, a write leaves it alone changed, and the flags move only with F. -/
theorem byteCommandsTouchOneRegister : Obligations.ByteCommandsTouchOneRegister := by
  intro row hrow s
  obtain ⟨r, rfl⟩ := exists_reg_of_mem_regRows hrow
  refine ⟨answers_readOf r s, fun v => ⟨leaves_writeOf r v s, fun hF t hexec => ?_⟩⟩
  obtain ⟨u, hu, -, hregs, -⟩ := leaves_writeOf r v s
  obtain rfl := Host.Outcome.next.inj (hu.symm.trans hexec)
  exact RegFile.flags_eq_of_get_F ((hregs .F).trans (if_neg hF.symm))

/-- Settles O10: a write word is the word of its command, and the step that serves it does the write. -/
theorem registerWriteWordsAtThePort : Obligations.RegisterWriteWordsAtThePort := by
  intro row hrow s v
  obtain ⟨r, rfl⟩ := exists_reg_of_mem_regRows hrow
  have hserves := portServes_encodeCmd (Instr.writeOf r v) s
  have hregs : (s.regs.set r v).get = fun q => if q = r then v else s.regs.get q :=
    funext fun q => RegFile.get_set s.regs r q v
  rw [encodeCmd_writeOf, ← wordS8_zero_or, effect_writeOf, writeReg, hregs] at hserves
  exact hserves

/-- Settles O11: the write is the most recent one that covers the register, and the read answers what it left there. -/
theorem readAfterWriteUntilNextWrite : Obligations.ReadAfterWriteUntilNextWrite := by
  intro row hrow s v cs hcs
  obtain ⟨r, rfl⟩ := exists_reg_of_mem_regRows hrow
  obtain ⟨t, hrun, hregs⟩ := runCmds_regs (Instr.writeOf r v :: cs) s
  have hr : t.regs.get r = v :=
    (hregs r).trans (mostRecent_of_last_write (by simp [stores_writeOf]) hcs [] _)
  refine ⟨t, hrun, ?_⟩
  rw [← hr]
  exact answers_readOf r t

/-- Settles O12, by the two laws of `RegFile.set`: a run of writes leaves no other trace than the registers written. -/
theorem byteWritesOverwriteAndCommute : Obligations.ByteWritesOverwriteAndCommute := by
  refine ⟨fun row hrow s v1 v2 => ?_, fun row hrow row' hrow' hne s v1 v2 => ?_⟩
  · obtain ⟨r, rfl⟩ := exists_reg_of_mem_regRows hrow
    refine ⟨_, _, runCmds_writeOf_writeOf r r v1 v2 s, runCmds_writeOf r v2 [] s, ?_⟩
    rw [RegFile.set_set]; rfl
  · obtain ⟨q, rfl⟩ := exists_reg_of_mem_regRows hrow
    obtain ⟨r, rfl⟩ := exists_reg_of_mem_regRows hrow'
    refine ⟨_, _, runCmds_writeOf_writeOf q r v1 v2 s, runCmds_writeOf_writeOf r q v2 v1 s, ?_⟩
    rw [RegFile.set_comm _ hne]

/-- Settles O9: a read word is the word of its command, and the step that serves it answers the register. -/
theorem registerReadWordsAtThePort : Obligations.RegisterReadWordsAtThePort := by
  intro row hrow s
  obtain ⟨r, rfl⟩ := exists_reg_of_mem_regRows hrow
  have hserves := portServes_encodeCmd (Instr.readOf r) s
  rw [encodeCmd_readOf, effect_readOf] at hserves
  exact hserves

end Sys2Proof.Claims
end

section
/-! The rules the statements about the 16-bit commands rest on: what one row of R81 to R88 holds, a read and a write of a
pair as laws of the register file, and commands that write different registers in either order. -/

namespace Sys2Proof

/-- The word of a pair write is the format's word with the operand in `imm` (R48, R49). -/
theorem wordS16_zero_or (p : Pair) (v : Half) : wordS16 p 0#16 ||| v.setWidth 24 = wordS16 p v :=
  append_zero_or_setWidth (m := 8) (n := 16) _ v

end Sys2Proof

namespace Sys2Proof.Machine

theorem effect_readPairOf (p : Pair) (rf : RegFile) : effect (Instr.readPairOf p) rf = readPair p rf := by
  cases p <;> rfl

theorem effect_writePairOf (p : Pair) (v : Half) (rf : RegFile) : effect (Instr.writePairOf p v) rf = writePair p v rf := by
  cases p <;> rfl

theorem exec_readPairOf (p : Pair) (s : State) :
    exec (Instr.readPairOf p) s = .next (s.complete (readPair p s.regs)) := by
  rw [exec_eq, effect_readPairOf]

theorem exec_writePairOf (p : Pair) (v : Half) (s : State) :
    exec (Instr.writePairOf p v) s = .next (s.complete (writePair p v s.regs)) := by
  rw [exec_eq, effect_writePairOf]

/-- F is the low register of AF and the high register of no pair (R14). -/
theorem highReg_ne_F (p : Pair) : highReg p ≠ .F := by cases p <;> decide

/-- What is written to a pair is read from it (R89). -/
theorem RegFile.getPair_setPair (rf : RegFile) (p : Pair) (v : Half) : (rf.setPair p v).getPair p = v := by
  rw [RegFile.getPair, RegFile.get_setPair, RegFile.get_setPair, if_pos rfl, if_neg (highReg_ne_lowReg p).symm, if_pos rfl,
    joinBytes_halves]

/-- Writing to a pair what it holds changes nothing (R89). -/
theorem RegFile.setPair_getPair (rf : RegFile) (p : Pair) : rf.setPair p (rf.getPair p) = rf := by
  refine RegFile.ext_get fun q => ?_
  rw [RegFile.get_setPair, RegFile.getPair, highByte_joinBytes, lowByte_joinBytes]
  split_ifs with hhigh hlow
  · rw [hhigh]
  · rw [hlow]
  · rfl

end Sys2Proof.Machine

namespace Sys2Proof.Claims

open Sys2Proof.Machine

/-- A row of the pair table is all given by its pair: the registers of R14, the commands of R55 and the words of R48. -/
theorem exists_pair_of_mem_pairRows {row : PairRow} (hrow : row ∈ pairRows) :
    ∃ p, row = ⟨highReg p, lowReg p, Instr.readOf (highReg p), Instr.readOf (lowReg p), Instr.writeOf (highReg p),
      Instr.writeOf (lowReg p), Instr.readPairOf p, Instr.writePairOf p, wordG16 p, wordS16 p 0#16⟩ := by
  simp only [pairRows, List.mem_cons, List.not_mem_nil, or_false] at hrow
  obtain rfl | rfl | rfl | rfl := hrow
  exacts [⟨.AF, rfl⟩, ⟨.BC, rfl⟩, ⟨.DE, rfl⟩, ⟨.HL, rfl⟩]

/-- All a write of a pair does, in the shift and mask form of R80. -/
theorem get_setPair_shift (rf : RegFile) (p : Pair) (v : Half) (q : Reg) :
    (rf.setPair p v).get q = if q = highReg p then shiftHigh v else if q = lowReg p then maskLow v else rf.get q := by
  rw [RegFile.get_setPair, highByte_eq_shiftHigh, lowByte_eq_maskLow]

/-- A write of a pair returns no value and leaves the six registers outside the pair as they were (R80). -/
theorem leaves_writePairOf (p : Pair) (v : Half) (s : State) :
    Leaves (Instr.writePairOf p v) s fun q =>
      if q = highReg p then shiftHigh v else if q = lowReg p then maskLow v else s.regs.get q :=
  ⟨_, exec_writePairOf p v s, rfl, get_setPair_shift s.regs p v, rfl, rfl⟩

theorem writes_pairRow_write {row : PairRow} (hrow : row ∈ pairRows) (v : Half) : writes (row.write v) = [row.x, row.y] := by
  obtain ⟨-, -, hXY⟩ := pairRow_stores hrow
  rw [writes, hXY]; rfl

theorem writes_regRow_write {row : RegRow} (hrow : row ∈ regRows) (v : Byte) : writes (row.write v) = [row.reg] := by
  obtain ⟨r, rfl⟩ := exists_reg_of_mem_regRows hrow
  rw [writes, stores_writeOf]; rfl

/-- Two pairs share no register (R14). -/
theorem pairRow_regs_disjoint : ∀ row ∈ pairRows, ∀ row' ∈ pairRows, row.x ≠ row'.x →
    ∀ r ∈ [row.x, row.y], r ∉ [row'.x, row'.y] := by
  decide

/-- A write of one register replaces that register alone in what the command before it stored (R141). -/
theorem runCmds_then_write_one {i j : Instr} {q r : Reg} {a b : Byte} (hi : (q, a) ∈ stores i) (hj : stores j = [(r, b)])
    (hne : q ≠ r) (s : State) :
    ∃ t, runCmds [i, j] s = some t ∧ t.regs.get q = a ∧ t.regs.get r = b := by
  obtain ⟨t, hrun, hregs⟩ := runCmds_regs [i, j] s
  refine ⟨t, hrun, (hregs q).trans ?_, (hregs r).trans ?_⟩
  · exact mostRecent_of_last_write hi (by simpa [writes, hj] using hne) [] _
  · exact mostRecent_of_last_write (by simp [hj]) (by simp) [i] _

/-- Commands that write no register in common leave the same registers in either order: of each register at most one of
them decides (R141). -/
theorem effect_regs_comm {i j : Instr} (h : ∀ r ∈ writes i, r ∉ writes j) (rf : RegFile) :
    (effect j (effect i rf).1).1 = (effect i (effect j rf).1).1 := by
  refine RegFile.ext_get fun r => ?_
  by_cases hi : r ∈ writes i
  · have hj : r ∉ writes j := h r hi
    rw [get_effect_of_notMem_writes hj, get_effect i, get_effect i, get_effect_of_notMem_writes hj]
  · rw [get_effect_of_notMem_writes hi, get_effect j, get_effect j, get_effect_of_notMem_writes hi]

/-- Writes of different registers lead to one state in either order, outcome included (R141). -/
theorem runCmds_comm {i j : Instr} (h : ∀ r ∈ writes i, r ∉ writes j) (hi : writes i ≠ []) (hj : writes j ≠ [])
    (s : State) : ∃ t, runCmds [i, j] s = some t ∧ runCmds [j, i] s = some t := by
  have hsame : effect j (effect i s.regs).1 = effect i (effect j s.regs).1 :=
    Prod.ext (effect_regs_comm h s.regs) ((effect_of_writes_ne_nil hj _).trans (effect_of_writes_ne_nil hi _).symm)
  refine ⟨s.complete (effect j (effect i s.regs).1), ?_, ?_⟩
  · rw [runCmds_cons, runCmds_cons]; rfl
  · rw [runCmds_cons, runCmds_cons, hsame]; rfl

end Sys2Proof.Claims
end

section
/-! The statements about the 16-bit commands (spec/41_pair16.md). -/

namespace Sys2Proof.Claims

open Sys2Proof.Machine

/-- Settles O13: a read answers the two registers, a write leaves the other six alone, and the flags move only with F. -/
theorem pairCommandsTouchOnePair : Obligations.PairCommandsTouchOnePair := by
  intro row hrow s
  refine ⟨answers_readPair hrow s, fun v => ?_⟩
  obtain ⟨p, rfl⟩ := exists_pair_of_mem_pairRows hrow
  refine ⟨leaves_writePairOf p v s, fun hF t hexec => ?_⟩
  obtain ⟨u, hu, -, hregs, -⟩ := leaves_writePairOf p v s
  obtain rfl := Host.Outcome.next.inj (hu.symm.trans hexec)
  exact RegFile.flags_eq_of_get_F ((hregs .F).trans ((if_neg (highReg_ne_F p).symm).trans (if_neg hF.symm)))

/-- Settles O15: a pair's write word is the word of its command, and the step that serves it does the write. -/
theorem pairWriteWordsAtThePort : Obligations.PairWriteWordsAtThePort := by
  intro row hrow s v
  obtain ⟨p, rfl⟩ := exists_pair_of_mem_pairRows hrow
  have hserves := portServes_encodeCmd (Instr.writePairOf p v) s
  rw [encodeCmd_writePairOf, ← wordS16_zero_or, effect_writePairOf, writePair,
    funext (get_setPair_shift s.regs p v)] at hserves
  exact hserves

/-- Settles O16: the read's answer as a joined pair of bytes and the written halves as fields are exact numbers. -/
theorem pairArithmeticIsExact : Obligations.PairArithmeticIsExact := by
  intro row hrow s
  refine ⟨⟨_, answers_readPair hrow s, ?_⟩, fun v => ?_⟩
  · rw [← joinBytes_eq_shiftJoin, toNat_joinBytes]
  · obtain ⟨t, hexec, htx, hty⟩ := exec_writePair hrow v s
    refine ⟨t, hexec, ?_, ?_⟩
    · rw [htx, ← highByte_eq_shiftHigh, toNat_highByte]
    · rw [hty, ← lowByte_eq_maskLow, toNat_lowByte]

/-- Settles O17, by the two round-trip laws of a pair: `getPair_setPair` for write then read, `setPair_getPair` for read
then write. -/
theorem pairRoundTripIsLossless : Obligations.PairRoundTripIsLossless := by
  intro row hrow s
  obtain ⟨p, rfl⟩ := exists_pair_of_mem_pairRows hrow
  refine ⟨fun v => ⟨_, exec_writePairOf p v s, answers_of_effect ?_⟩, ?_⟩
  · rw [effect_readPairOf, readPair, State.complete_regs, writePair, RegFile.getPair_setPair]
  · have hback : ∀ r, (s.regs.setPair p (s.regs.getPair p)).get r = s.regs.get r := fun r => by
      rw [RegFile.setPair_getPair]
    exact ⟨_, s.regs.getPair p, exec_readPairOf p s, rfl, _, exec_writePairOf p _ _, rfl, hback, rfl, rfl⟩

/-- Settles O19: the half written last is the one found, and writes with no register in common commute. -/
theorem pairWritesAndOtherWritesCommute : Obligations.PairWritesAndOtherWritesCommute := by
  refine ⟨fun row hrow s v b => ?_, fun row hrow row' hrow' hne s v v' => ?_, fun row hrow reg hreg hx hy s v b => ?_⟩
  · obtain ⟨hne, -, -⟩ := pairRow_reads row hrow
    obtain ⟨hX, hY, hXY⟩ := pairRow_stores hrow
    have hx : (row.x, shiftHigh v) ∈ stores (row.write v) := by simp [hXY]
    have hy : (row.y, maskLow v) ∈ stores (row.write v) := by simp [hXY]
    constructor
    · obtain ⟨t, hrun, htx, hty⟩ := runCmds_then_write_one hx (hY b) hne s
      exact ⟨t, hrun, by simpa only [htx, hty] using answers_readPair hrow t⟩
    · obtain ⟨t, hrun, hty, htx⟩ := runCmds_then_write_one hy (hX b) hne.symm s
      exact ⟨t, hrun, by simpa only [htx, hty] using answers_readPair hrow t⟩
  · have hdisjoint := pairRow_regs_disjoint row hrow row' hrow' hne
    rw [← writes_pairRow_write hrow v, ← writes_pairRow_write hrow' v'] at hdisjoint
    exact runCmds_comm hdisjoint (by simp [writes_pairRow_write hrow]) (by simp [writes_pairRow_write hrow']) s
  · refine runCmds_comm ?_ (by simp [writes_pairRow_write hrow]) (by simp [writes_regRow_write hreg]) s
    simpa [writes_pairRow_write hrow, writes_regRow_write hreg] using ⟨hx.symm, hy.symm⟩

/-- Settles O14: a pair's read word is the word of its command, and the step that serves it answers both registers. -/
theorem pairReadWordsAtThePort : Obligations.PairReadWordsAtThePort := by
  intro row hrow s
  obtain ⟨p, rfl⟩ := exists_pair_of_mem_pairRows hrow
  have hserves := portServes_encodeCmd (Instr.readPairOf p) s
  rw [encodeCmd_readPairOf, effect_readPairOf, readPair, RegFile.getPair, joinBytes_eq_shiftJoin] at hserves
  exact hserves

end Sys2Proof.Claims
end

section
/-! The rules the statements about the flags codec rest on: the codec as the high nibble of a byte, the words of its two
commands, and what each of them answers. -/

namespace Sys2Proof

/-- The word of ENCODE is its match with the record in `imm[3:0]` (R91). -/
theorem wordENC_eq_or (fl : Flags) : 0x500000#24 ||| fl.pack.setWidth 24 = wordENC fl :=
  append_zero_or_setWidth (0x5#4 ++ 0x0#4 ++ 0#12) fl.pack

/-- The word of DECODE is its match with the byte in `imm[7:0]` (R92). -/
theorem wordDEC_eq_or (b : Byte) : 0x510000#24 ||| b.setWidth 24 = wordDEC b :=
  append_zero_or_setWidth (0x5#4 ++ 0x1#4 ++ 0#8) b

end Sys2Proof

namespace Sys2Proof.Machine

/-- DECODE takes the high nibble out of the byte, as the record's wire form (R92). -/
theorem pack_decodeFlags (b : Byte) : (decodeFlags b).pack = b.extractLsb' 4 4 := by
  have hunpack : decodeFlags b = Flags.unpack (b.extractLsb' 4 4) := by
    simp [decodeFlags_eq_bits, Flags.unpack]
  rw [hunpack, Flags.pack_unpack]

/-- ENCODE is one to one (R93). -/
theorem encodeFlags_injective : Function.Injective encodeFlags :=
  Function.LeftInverse.injective decodeFlags_encodeFlags

/-- A byte is what its flags encode to exactly when nothing stands below them (R96). -/
theorem encodeFlags_decodeFlags_eq_self_iff (b : Byte) : encodeFlags (decodeFlags b) = b ↔ b.extractLsb' 0 4 = 0#4 := by
  constructor
  · intro h
    rw [← h, lowNibble_encodeFlags]
  · intro h
    rw [encodeFlags_eq_pack_append, pack_decodeFlags, ← h, BitVec.extractLsb'_append_extractLsb']

/-- The byte of R91 as a number: its record's wire form, four places up. -/
theorem toNat_encodeFlags_eq_pack (fl : Flags) : (encodeFlags fl).toNat = fl.pack.toNat * 16 := by
  rw [encodeFlags_eq_pack_append, BitVec.toNat_append, BitVec.toNat_ofNat, Nat.zero_mod, Nat.or_zero, Nat.shiftLeft_eq]

theorem toNat_pack_decodeFlags (b : Byte) : (decodeFlags b).pack.toNat = b.toNat / 16 := by
  have := b.isLt
  rw [pack_decodeFlags, BitVec.extractLsb'_toNat, Nat.shiftRight_eq_div_pow]
  omega

/-- Each flag of a byte follows its own bit (R95). -/
theorem decodeFlags_xor (b m : Byte) :
    decodeFlags (b ^^^ m) =
      ⟨(decodeFlags b).zero ^^ (decodeFlags m).zero, (decodeFlags b).subtract ^^ (decodeFlags m).subtract,
        (decodeFlags b).halfCarry ^^ (decodeFlags m).halfCarry, (decodeFlags b).carry ^^ (decodeFlags m).carry⟩ := by
  simp only [decodeFlags_eq_bits, BitVec.getLsbD_xor]

/-- Flipping bit 7, 6, 5 or 4 of a byte flips the flag that stands there and no other (R95). -/
theorem decodeFlags_flip (b : Byte) :
    decodeFlags (b ^^^ 0x80#8) = { decodeFlags b with zero := !(decodeFlags b).zero } ∧
    decodeFlags (b ^^^ 0x40#8) = { decodeFlags b with subtract := !(decodeFlags b).subtract } ∧
    decodeFlags (b ^^^ 0x20#8) = { decodeFlags b with halfCarry := !(decodeFlags b).halfCarry } ∧
    decodeFlags (b ^^^ 0x10#8) = { decodeFlags b with carry := !(decodeFlags b).carry } := by
  have hz : decodeFlags 0x80#8 = ⟨true, false, false, false⟩ := by decide
  have hs : decodeFlags 0x40#8 = ⟨false, true, false, false⟩ := by decide
  have hhc : decodeFlags 0x20#8 = ⟨false, false, true, false⟩ := by decide
  have hc : decodeFlags 0x10#8 = ⟨false, false, false, true⟩ := by decide
  simp [decodeFlags_xor, hz, hs, hhc, hc]

/-- Where a record's byte, changed above its low nibble, decodes to `fl'`, the changed byte is what `fl'` encodes to (R95). -/
theorem encodeFlags_of_decodeFlags_xor {fl fl' : Flags} {m : Byte} (hm : m.extractLsb' 0 4 = 0#4)
    (h : decodeFlags (encodeFlags fl ^^^ m) = fl') : encodeFlags fl' = encodeFlags fl ^^^ m := by
  rw [← h, encodeFlags_decodeFlags_eq_self_iff, BitVec.extractLsb'_xor, lowNibble_encodeFlags, hm, BitVec.xor_zero]

theorem toNat_byteResponse (b : Byte) : (byteResponse b).toNat = b.toNat :=
  BitVec.toNat_setWidth_of_le (by decide)

theorem toNat_flagsResponse (fl : Flags) : (flagsResponse fl).toNat = fl.pack.toNat :=
  BitVec.toNat_setWidth_of_le (by decide)

/-- The answer of ENCODE is the record's wire form, shifted up by four places (R91). -/
theorem byteResponse_encodeFlags (fl : Flags) : byteResponse (encodeFlags fl) = fl.pack.setWidth 16 <<< 4 := by
  apply BitVec.eq_of_toNat_eq
  have := fl.pack.isLt
  rw [toNat_byteResponse, toNat_encodeFlags_eq_pack, BitVec.toNat_shiftLeft, BitVec.toNat_setWidth, Nat.shiftLeft_eq]
  omega

/-- The answer of DECODE is the byte, shifted down by four places (R92). -/
theorem flagsResponse_decodeFlags (b : Byte) : flagsResponse (decodeFlags b) = b.setWidth 16 >>> 4 := by
  apply BitVec.eq_of_toNat_eq
  have := b.isLt
  rw [toNat_flagsResponse, toNat_pack_decodeFlags, BitVec.toNat_ushiftRight, BitVec.toNat_setWidth,
    Nat.shiftRight_eq_div_pow]
  omega

/-- The four booleans the master reads off a response are the record it was made of (R50, R52). -/
theorem flags_of_flagsResponse (fl : Flags) :
    (⟨(flagsResponse fl).getLsbD 3, (flagsResponse fl).getLsbD 2, (flagsResponse fl).getLsbD 1,
      (flagsResponse fl).getLsbD 0⟩ : Flags) = fl := by
  obtain ⟨hz, hs, hhc, hc, -⟩ := flagsResponse_bits fl
  rw [hz, hs, hhc, hc]

/-- A master that decodes the byte of an 8-bit answer decodes the byte the answer was made of (R50, R94). -/
theorem exec_decode_byteResponse (b : Byte) (s : State) :
    exec (.decode ((byteResponse b).extractLsb' 0 8)) s = .next (s.complete (answerDecode b s.regs)) := by
  rw [show (byteResponse b).extractLsb' 0 8 = b from lowByte_byteResponse b, exec_eq]
  rfl

/-- A master that writes the byte of an 8-bit answer to F writes the byte the answer was made of (R50, R94). -/
theorem exec_setf_byteResponse (b : Byte) (s : State) :
    exec (.setf ((byteResponse b).extractLsb' 0 8)) s = .next (s.complete (writeReg .F b s.regs)) := by
  rw [show (byteResponse b).extractLsb' 0 8 = b from lowByte_byteResponse b, exec_eq]
  rfl

/-- A master that changes the record of an answer and encodes it encodes the changed record (R52, R94). -/
theorem exec_encode_flagsResponse (change : Flags → Flags) (fl : Flags) (s : State) :
    exec (.encode (change ⟨(flagsResponse fl).getLsbD 3, (flagsResponse fl).getLsbD 2, (flagsResponse fl).getLsbD 1,
      (flagsResponse fl).getLsbD 0⟩)) s = .next (s.complete (answerEncode (change fl) s.regs)) := by
  rw [flags_of_flagsResponse, exec_eq]
  rfl

end Sys2Proof.Machine

namespace Sys2Proof.Claims

open Sys2Proof.Machine

theorem answers_encode (fl : Flags) (s : State) : Answers (.encode fl) s (byteResponse (encodeFlags fl)) :=
  answers_of_effect rfl

theorem answers_decode (b : Byte) (s : State) : Answers (.decode b) s (flagsResponse (decodeFlags b)) :=
  answers_of_effect rfl

/-- The wire form of a record as a number (R52). -/
theorem toNat_pack (fl : Flags) :
    fl.pack.toNat = 8 * bit fl.zero + 4 * bit fl.subtract + 2 * bit fl.halfCarry + bit fl.carry := by
  have hbyte := toNat_encodeFlags fl
  rw [toNat_encodeFlags_eq_pack] at hbyte
  omega

end Sys2Proof.Claims
end

section
/-! The statements about the flags codec (spec/42_flags_codec.md). -/

namespace Sys2Proof.Claims

open Sys2Proof.Machine

/-- Settles O20: the answer is the codec's function of the operand, in any state. -/
theorem codecCommandsArePure : Obligations.CodecCommandsArePure :=
  ⟨fun fl => ⟨_, answers_encode fl⟩, fun b => ⟨_, answers_decode b⟩⟩

/-- Settles O21: the weights of the byte, and at the port the word whose operand is the record's wire form. -/
theorem encodeAnswersTheWeightedSum : Obligations.EncodeAnswersTheWeightedSum := by
  refine fun fl s => ⟨⟨_, answers_encode fl s, (toNat_byteResponse _).trans (toNat_encodeFlags fl)⟩, fun n hn => ?_⟩
  obtain rfl : n = fl.pack := BitVec.eq_of_toNat_eq (hn.trans (toNat_pack fl).symm)
  rw [wordENC_eq_or, ← byteResponse_encodeFlags]
  exact portServes_encodeCmd (.encode fl) s

/-- Settles O22: what is answered is the record's wire form, which is the byte shifted down. -/
theorem decodeAnswersTheHighNibble : Obligations.DecodeAnswersTheHighNibble := by
  intro b s
  constructor
  · obtain ⟨hz, hs, hhc, hc, -⟩ := flagsResponse_bits (decodeFlags b)
    exact ⟨_, answers_decode b s, (toNat_flagsResponse _).trans (toNat_pack_decodeFlags b),
      hz.trans (bitSet_eq_getLsbD b 7), hs.trans (bitSet_eq_getLsbD b 6), hhc.trans (bitSet_eq_getLsbD b 5),
      hc.trans (bitSet_eq_getLsbD b 4)⟩
  · rw [wordDEC_eq_or, ← flagsResponse_decodeFlags]
    exact portServes_encodeCmd (.decode b) s

/-- Settles O23: the byte answered is the byte decoded, and decoding undoes encoding. -/
theorem decodeAfterEncodeIsIdentity : Obligations.DecodeAfterEncodeIsIdentity := by
  refine ⟨fun fl s => ?_, decodeFlags_encodeFlags, fun _ _ h => encodeFlags_injective h⟩
  obtain ⟨hz, hs, hhc, hc, -⟩ := flagsResponse_bits fl
  refine ⟨_, _, exec_eq (.encode fl) s, rfl, _, exec_decode_byteResponse (encodeFlags fl) _, flagsResponse fl, ?_,
    hz, hs, hhc, hc⟩
  rw [State.complete_reply, answerDecode, decodeFlags_encodeFlags]

/-- Settles O53: each command of the cycle takes the answer before it, so F ends as the byte of the changed record. -/
theorem flagsCycleClearsTheLowNibble : Obligations.FlagsCycleClearsTheLowNibble := by
  intro change s
  refine ⟨_, _, _, _, _, _, _, exec_eq .getf s, rfl, exec_decode_byteResponse s.regs.F _, rfl,
    exec_encode_flagsResponse change _ _, rfl, exec_setf_byteResponse _ _, decodeFlags_encodeFlags _,
    lowNibble_encodeFlags _, fun r hr => ?_⟩
  exact (RegFile.get_set s.regs .F r _).trans (if_neg hr)

/-- Settles O24: the high nibble goes through both commands, and the byte comes back when it is all there was. -/
theorem encodeAfterDecodeKeepsHighNibble : Obligations.EncodeAfterDecodeKeepsHighNibble := by
  refine ⟨fun b => ⟨encodeFlags_decodeFlags b, encodeFlags_decodeFlags_eq_self_iff b⟩, fun b s => ?_⟩
  refine ⟨_, _, exec_eq (.decode b) s, rfl, _, _, exec_encode_flagsResponse id (decodeFlags b) _, rfl, ?_, fun _ => rfl⟩
  rw [toNat_byteResponse, toNat_encodeFlags_eq_pack, id, toNat_pack_decodeFlags]

/-- Settles O25: a changed bit of the byte changes its flag alone; and since decoding undoes encoding, a changed flag its
bit alone. -/
theorem flagsAreIndependent : Obligations.FlagsAreIndependent := by
  refine ⟨fun fl => ?_, decodeFlags_flip⟩
  obtain ⟨hz, hs, hhc, hc⟩ := decodeFlags_flip (encodeFlags fl)
  rw [decodeFlags_encodeFlags] at hz hs hhc hc
  exact ⟨encodeFlags_of_decodeFlags_xor (by decide) hz, encodeFlags_of_decodeFlags_xor (by decide) hs,
    encodeFlags_of_decodeFlags_xor (by decide) hhc, encodeFlags_of_decodeFlags_xor (by decide) hc⟩

end Sys2Proof.Claims
end

section
/-! The rules the statements about IllegalCommand rest on: what a command answers, what a step does to the outcome and to the
mark with a reserved word and without one, and a run past reserved words. -/

namespace Sys2Proof

theorem exists_ok_of_wellFormed {w : CmdWord} (h : wordWellFormed w = true) : ∃ i, decodeCmd w = .ok i := by
  cases hd : decodeCmd w with
  | ok i => exact ⟨i, rfl⟩
  | error r =>
    have hreason : reservedReason w = some r := (decodeCmd_eq_error_iff w r).1 hd
    simp [wordWellFormed, hreason] at h

end Sys2Proof

namespace Sys2Proof.Machine

/-- A command returns no value or a value (R45). -/
theorem effect_reply_done_or_value (i : Instr) (rf : RegFile) : (effect i rf).2 = .done ∨ ∃ w, (effect i rf).2 = .value w := by
  cases h : (effect i rf).2 with
  | done => exact .inl rfl
  | value w => exact .inr ⟨w, rfl⟩
  | illegal w => exact absurd h (effect_reply_ne_illegal i rf w)

theorem complete_effect_reply_ne_illegal (i : Instr) (rf : RegFile) (s : State) (w : CmdWord) :
    (s.complete (effect i rf)).reply ≠ some (.illegal w) :=
  fun h => effect_reply_ne_illegal i rf w (Option.some.inj h)

/-- `ill` is asserted for the outcome `illegal` alone (R46, R101). -/
theorem outputs_ill_eq_false {s : State} (h : ∀ w, s.reply ≠ some (.illegal w)) : s.outputs.ill = false := by
  unfold State.outputs
  cases hr : s.reply with
  | none => rfl
  | some r =>
    cases r with
    | value w => rfl
    | done => rfl
    | illegal w => exact absurd hr (h w)

/-- The closing edge of a cycle leaves the outcome and the mark of what was served (R46, R105). -/
theorem cycle_keeps_reply_and_mark (INIT : Reg → Byte) {inp : PortIn} {s t : State} (h : serve inp s = .next t) :
    ∃ u, cycle INIT inp s = .next u ∧ u.reply = t.reply ∧ u.illegalSeen = t.illegalSeen := by
  refine ⟨if inp.rst then t.resetRegs INIT else t, by rw [cycle, h]; rfl, ?_⟩
  cases inp.rst <;> exact ⟨rfl, rfl⟩

/-- The next cycle presents no reserved word. -/
def NoReservedNext (s : State) : Prop :=
  ∀ inp rest, s.pending = inp :: rest → inp.cmdValid = true → wordWellFormed inp.cmd = true

theorem exists_reserved_of_not_noReservedNext {s : State} (h : ¬ NoReservedNext s) :
    ∃ inp rest, s.pending = inp :: rest ∧ inp.cmdValid = true ∧ wordWellFormed inp.cmd = false := by
  simpa [NoReservedNext] using h

/-- A step that is given a reserved word answers `illegal` with it, and puts it in the mark if the mark is clear (R101),
in a reset cycle as in any other. -/
theorem step_of_reserved {s : State} {inp : PortIn} {rest : List PortIn} (hpending : s.pending = inp :: rest)
    (hvalid : inp.cmdValid = true) (hword : wordWellFormed inp.cmd = false) :
    ∃ t, step s = .next t ∧ t.reply = some (.illegal inp.cmd) ∧ t.illegalSeen = s.illegalSeen.or (some inp.cmd) := by
  obtain ⟨r, hr⟩ := exists_error_of_not_wellFormed hword
  rw [step_of_pending_cons hpending]
  exact cycle_keeps_reply_and_mark Config.INIT (serve_reserved hvalid hr { s with pending := rest })

/-- A step that is given no reserved word answers no `illegal` and keeps the mark (R100, R46). -/
theorem step_of_noReservedNext {s : State} (h : NoReservedNext s) :
    ∃ t, step s = .next t ∧ (∀ w, t.reply ≠ some (.illegal w)) ∧ t.illegalSeen = s.illegalSeen := by
  cases hpending : s.pending with
  | nil => exact ⟨_, step_of_pending_nil hpending, by simp, rfl⟩
  | cons inp rest =>
    have hserved : ∃ t, serve inp { s with pending := rest } = .next t ∧ (∀ w, t.reply ≠ some (.illegal w)) ∧
        t.illegalSeen = s.illegalSeen := by
      cases hvalid : inp.cmdValid with
      | false => exact ⟨_, serve_idle hvalid _, by simp, rfl⟩
      | true =>
        obtain ⟨i, hi⟩ := exists_ok_of_wellFormed (h inp rest hpending hvalid)
        exact ⟨_, serve_command hvalid hi _, complete_effect_reply_ne_illegal i _ _, rfl⟩
    obtain ⟨t, hserve, hreply, hmark⟩ := hserved
    obtain ⟨u, hcycle, hureply, humark⟩ := cycle_keeps_reply_and_mark Config.INIT hserve
    exact ⟨u, (step_of_pending_cons hpending).trans hcycle, hureply ▸ hreply, humark.trans hmark⟩

/-- A run past reserved words comes to what follows them with the registers it began with (R101, R107). -/
theorem run_past_reserved_words {ws : List CmdWord} (hws : ∀ w ∈ ws, wordWellFormed w = false) {s : State}
    {tail : List PortIn} (hpending : s.pending = ws.map presentWord ++ tail) (k : Nat) :
    ∃ t, t.regs = s.regs ∧ t.pending = tail ∧ Sys2Proof.core.run (ws.length + k) s = Sys2Proof.core.run k t := by
  induction ws generalizing s with
  | nil => exact ⟨s, rfl, hpending, by rw [List.length_nil, Nat.zero_add]⟩
  | cons w ws ih =>
    obtain ⟨hw, hws⟩ := List.forall_mem_cons.1 hws
    obtain ⟨r, hr⟩ := exists_error_of_not_wellFormed hw
    have hstep := step_of_pending_word hpending (serve_reserved (inp := presentWord w) rfl hr _)
    obtain ⟨t, hregs, htail, hrun⟩ := ih hws (s := State.takeIllegalCommand { s with pending := _ } w) rfl
    refine ⟨t, hregs, htail, ?_⟩
    rw [List.length_cons, Nat.add_right_comm, run_succ_of_next hstep]
    exact hrun

end Sys2Proof.Machine

namespace Sys2Proof

open Sys2Proof.Machine

/-- The conservative step is a fault where `step` answers `illegal` (R103). -/
theorem strictStep_of_reply_illegal {s t : State} {w : CmdWord} (hstep : step s = .next t)
    (hreply : t.reply = some (.illegal w)) : strictStep s = .fault (.illegalCommand w) := by
  simp only [strictStep, hstep, hreply]

/-- The conservative step is `step` where that answers anything else (R103). -/
theorem strictStep_of_reply_ne_illegal {s t : State} (hstep : step s = .next t)
    (hreply : ∀ w, t.reply ≠ some (.illegal w)) : strictStep s = step s := by
  simp only [strictStep, hstep]
  cases hr : t.reply with
  | none => rfl
  | some r =>
    cases r with
    | value w => rfl
    | done => rfl
    | illegal w => exact absurd hr (hreply w)

theorem markSound_of_kept {s t : State} (hs : MarkSound s) (hreply : ∀ w, t.reply ≠ some (.illegal w))
    (hmark : t.illegalSeen = s.illegalSeen) : MarkSound t := by
  obtain ⟨hseen, -⟩ := hs
  exact ⟨fun w hw => hseen w (hmark.symm.trans hw), fun w hw => absurd hw (hreply w)⟩

theorem markSound_of_reserved {s t : State} {w : CmdWord} (hs : MarkSound s) (hw : wordWellFormed w = false)
    (hreply : t.reply = some (.illegal w)) (hmark : t.illegalSeen = s.illegalSeen.or (some w)) : MarkSound t := by
  obtain ⟨hseen, -⟩ := hs
  refine ⟨fun v hv => ?_, fun v hv => ?_⟩
  · obtain hold | ⟨-, hnew⟩ := Option.or_eq_some_iff.1 (hmark.symm.trans hv)
    · exact hseen v hold
    · exact Option.some.inj hnew ▸ hw
  · obtain ⟨rfl⟩ : Reply.illegal w = .illegal v := Option.some.inj (hreply.symm.trans hv)
    exact ⟨hw, by simp [hmark]⟩

end Sys2Proof
end

section
/-! The statements about IllegalCommand (spec/60_exceptions.md). -/

namespace Sys2Proof.Claims

open Sys2Proof.Machine

/-- Settles O44: a step without a reserved word keeps the mark, and one with a reserved word sets it if it is clear. -/
theorem everyStepKeepsTheMarkSound : Obligations.EveryStepKeepsTheMarkSound := by
  intro s hsound
  by_cases hnext : NoReservedNext s
  · obtain ⟨t, hstep, hreply, hmark⟩ := step_of_noReservedNext hnext
    exact ⟨t, hstep, markSound_of_kept hsound hreply hmark, fun _ => hmark, fun hsafe _ => hmark.trans hsafe⟩
  · obtain ⟨inp, rest, hpending, hvalid, hword⟩ := exists_reserved_of_not_noReservedNext hnext
    obtain ⟨t, hstep, hreply, hmark⟩ := step_of_reserved hpending hvalid hword
    refine ⟨t, hstep, markSound_of_reserved hsound hword hreply hmark, fun hset => ?_, fun _ h => absurd h hnext⟩
    obtain ⟨w, hw⟩ := Option.ne_none_iff_exists'.1 hset
    rw [hmark, hw, Option.some_or]

/-- Settles O42: the reserved words leave the registers, and these are all the command depends on. -/
theorem blockGoesOnAfterReservedWords : Obligations.BlockGoesOnAfterReservedWords := by
  intro ws i s rest hws hpending
  obtain ⟨t, hregs, htail, hrun⟩ := run_past_reserved_words hws hpending 1
  rw [run_succ_of_next (step_of_pending_command htail), run_zero, hregs] at hrun
  exact ⟨_, _, hrun, exec_eq i s, rfl, rfl, outputs_ill_eq_false (complete_effect_reply_ne_illegal i _ _), rfl⟩

/-- Settles O43: `step` answers `illegal` with a reserved word and with nothing else. -/
theorem strictStepFaultsExactlyOnReservedWords : Obligations.StrictStepFaultsExactlyOnReservedWords := by
  refine fun s => ⟨fun inp rest hpending hvalid hword => ?_, fun hnext => ?_⟩
  · obtain ⟨t, hstep, hreply, -⟩ := step_of_reserved hpending hvalid hword
    exact strictStep_of_reply_illegal hstep hreply
  · obtain ⟨t, hstep, hreply, -⟩ := step_of_noReservedNext hnext
    exact strictStep_of_reply_ne_illegal hstep hreply

/-- Settles O30, by `exec_eq`: a command completes with what its effect returns, which is no value or a value. -/
theorem noCommandRaisesAnException : Obligations.NoCommandRaisesAnException := by
  refine fun i s => ⟨_, exec_eq i s, rfl, ?_⟩
  simpa using effect_reply_done_or_value i s.regs

/-- Settles O45: right after reset there is no outcome and the mark is clear. -/
theorem markIsSoundAfterReset : Obligations.MarkIsSoundAfterReset :=
  fun INIT => ⟨⟨by simp, by simp⟩, State.resetWith_illegalSeen INIT⟩

end Sys2Proof.Claims
end

section
/-! The rules the statements about hazards and the master rest on: what a step without reset does to the registers, the low
nibble of F under every command, and runs in which no register is written twice. -/

namespace Sys2Proof.Machine

/-- A step whose cycle does not reset leaves the registers, or does to them what the command it presents does (R46). -/
theorem step_without_reset {s : State} {inp : PortIn} {rest : List PortIn} (hpending : s.pending = inp :: rest)
    (hrst : inp.rst = false) :
    ∃ t, step s = .next t ∧ t.pending = rest ∧ (t.regs = s.regs ∨
      ∃ i, inp.cmdValid = true ∧ decodeCmd inp.cmd = .ok i ∧ t.regs = (effect i s.regs).1) := by
  obtain ⟨hnil, -⟩ | ⟨_, _, t, hcons, hserved, hstep⟩ := stepWith_cases Config.INIT s
  · exact nomatch hpending.symm.trans hnil
  · obtain ⟨rfl, rfl⟩ := List.cons.inj (hpending.symm.trans hcons)
    refine ⟨t, by simpa [step, hrst] using hstep, ?_⟩
    obtain ⟨-, rfl⟩ | ⟨i, hvalid, hdecode, rfl⟩ | ⟨_, -, -, rfl⟩ := hserved
    · exact ⟨rfl, .inl rfl⟩
    · exact ⟨rfl, .inr ⟨i, hvalid, hdecode, rfl⟩⟩
    · exact ⟨rfl, .inl rfl⟩

/-- The two nibble masks have no bit in common. -/
theorem highNibble_and_lowMask (b : Byte) : b &&& 0xF0#8 &&& 0x0F#8 = 0#8 := by
  rw [BitVec.and_assoc]
  exact BitVec.and_zero

theorem encodeFlags_and_lowMask (fl : Flags) : encodeFlags fl &&& 0x0F#8 = 0#8 := by
  have hmasked : encodeFlags fl = encodeFlags fl &&& 0xF0#8 := by
    rw [← encodeFlags_decodeFlags, decodeFlags_encodeFlags]
  rw [hmasked, highNibble_and_lowMask]

/-- The mask R129 asks for before a SETAF clears the low nibble of the low half. -/
theorem lowByte_and_fff0 (x : Half) : lowByte (x &&& 0xFFF0#16) = lowByte x &&& 0xF0#8 := BitVec.extractLsb'_and

end Sys2Proof.Machine

namespace Sys2Proof.Claims

open Sys2Proof.Machine

/-- F[3:0] stays clear under a command that writes F, if at all, as R129 asks: with a result of ENCODE, or by a SETAF whose
operand is masked. -/
theorem nibbleClear_effect {i : Instr} {rf : RegFile} (hclear : NibbleClear rf)
    (hsetf : ∀ v, i = .setf v → ∃ fl, v = encodeFlags fl) (hsetaf : ∀ v, i = .setaf v → ∃ x, v = x &&& 0xFFF0#16) :
    NibbleClear (effect i rf).1 := by
  by_cases hF : .F ∈ writes i
  · obtain ⟨v, rfl⟩ | ⟨v, rfl⟩ := (F_mem_writes_iff i).1 hF
    · obtain ⟨fl, rfl⟩ := hsetf v rfl
      exact encodeFlags_and_lowMask fl
    · obtain ⟨x, rfl⟩ := hsetaf v rfl
      exact (congrArg (· &&& 0x0F#8) (lowByte_and_fff0 x)).trans (highNibble_and_lowMask (lowByte x))
  · have hkept : (effect i rf).1.F = rf.F := get_effect_of_notMem_writes hF rf
    rwa [NibbleClear, hkept]

/-- Where no register is written twice, every value a command stores is the most recent one (R39). -/
theorem mostRecent_of_writes_nodup {cs : List Instr} (hcs : (cs.flatMap writes).Nodup) {r : Reg} {v : Byte}
    (hmem : (r, v) ∈ cs.flatMap stores) (start : Byte) : mostRecent r cs start = v := by
  obtain ⟨i, hi, hrv⟩ := List.mem_flatMap.1 hmem
  obtain ⟨pre, post, rfl⟩ := List.append_of_mem hi
  rw [List.flatMap_append, List.flatMap_cons] at hcs
  have hdisjoint : (writes i).Disjoint (post.flatMap writes) := List.disjoint_of_nodup_append hcs.of_append_right
  refine mostRecent_of_last_write hrv (fun j hj hr => ?_) pre start
  exact hdisjoint (List.mem_map_of_mem hrv) (List.mem_flatMap.2 ⟨j, hj, hr⟩)

end Sys2Proof.Claims
end

section
/-! The statements about hazards, known states and the master's nibble discipline (spec/70_reset_and_hazards.md). -/

namespace Sys2Proof.Claims

open Sys2Proof.Machine

/-- Settles O49: with nothing driven F is kept, and a cycle of such a master does not reset, so F is kept or written by a
command `nibbleClear_effect` speaks of. -/
theorem nibbleDisciplineIsKept : Obligations.NibbleDisciplineIsKept := by
  rintro s ⟨hclear, hmaster⟩
  cases hpending : s.pending with
  | nil => exact ⟨_, step_of_pending_nil hpending, hclear, hmaster⟩
  | cons inp rest =>
    rw [hpending, List.forall_mem_cons] at hmaster
    obtain ⟨⟨hrst, hkeeps⟩, hrest⟩ := hmaster
    obtain ⟨t, hstep, htPending, hregs⟩ := step_without_reset hpending hrst
    refine ⟨t, hstep, ?_, htPending ▸ hrest⟩
    obtain hregs | ⟨i, hvalid, hdecode, hregs⟩ := hregs
    · rwa [hregs]
    · obtain ⟨hsetf, hsetaf⟩ := hkeeps hvalid
      rw [hregs]
      exact nibbleClear_effect hclear (fun v hi => hsetf v (hi ▸ hdecode)) (fun v hi => hsetaf v (hi ▸ hdecode))

/-- Settles O40: an idle step keeps every register, and a step without reset changes those alone that its command writes. -/
theorem registersChangeOnlyByResetOrSet : Obligations.RegistersChangeOnlyByResetOrSet := by
  intro s t r hstep hchanged
  cases hpending : s.pending with
  | nil =>
    obtain rfl := Host.Outcome.next.inj ((step_of_pending_nil hpending).symm.trans hstep)
    exact absurd rfl hchanged
  | cons inp rest =>
    refine ⟨inp, rest, rfl, ?_⟩
    cases hrst : inp.rst with
    | true => exact .inl rfl
    | false =>
      obtain ⟨u, hu, -, hregs⟩ := step_without_reset hpending hrst
      obtain rfl := Host.Outcome.next.inj (hu.symm.trans hstep)
      obtain hregs | ⟨i, hvalid, hdecode, hregs⟩ := hregs
      · exact absurd (by rw [hregs]) hchanged
      · refine .inr ⟨hvalid, i, hdecode, Decidable.by_contra fun hmem => hchanged ?_⟩
        rw [hregs, get_effect_of_notMem_writes hmem]

/-- Settles O48: the four writes store each of the eight registers once, and so in any order the one value stored is the
most recent. -/
theorem fourPairWritesMakeTheStateKnown : Obligations.FourPairWritesMakeTheStateKnown := by
  intro a b d h cs s hperm
  obtain ⟨t, hrun, hregs⟩ := runCmds_regs cs s
  have hnodup : (cs.flatMap writes).Nodup :=
    (hperm.flatMap_right writes).nodup_iff.2 (by decide : [Reg.A, .F, .B, .C, .D, .E, .H, .L].Nodup)
  have hstored : ∀ {r v}, (r, v) ∈ [Instr.setaf a, .setbc b, .setde d, .sethl h].flatMap stores → t.regs.get r = v :=
    fun hmem => (hregs _).trans
      (mostRecent_of_writes_nodup hnodup ((hperm.flatMap_right stores).mem_iff.2 hmem) _)
  refine ⟨t, hrun, RegFile.ext_get fun r => hstored ?_⟩
  cases r <;> simp [stores]

end Sys2Proof.Claims
end
